-- ==== Sys2Proof/Word.lean ====
section
/-! DEFINITION. The value types of the core: bytes, 16-bit words, register numbers, the keyboard and the display grid
(00_scope.md R7, R9, R10). Every value is unsigned. -/

namespace Sys2Proof

/-- One 8-bit value: a general register, a timer, a memory byte (R7). -/
abbrev Byte := BitVec 8

/-- One 16-bit value: an instruction word, PC, I, a stack slot (R7). -/
abbrev Word := BitVec 16

/-- The 12-bit address immediate NNN (R12). -/
abbrev Addr12 := BitVec 12

/-- A general register's number, 0x0 to 0xF (R12, R20). -/
abbrev RegIdx := Fin 16

/-- A sprite height N, 0 to 15 (R12, R93). -/
abbrev Height := Fin 16

/-- A key's number on the hex keypad, 0x0 to 0xF (R7). -/
abbrev KeyIdx := Fin 16

/-- One sample of the keyboard: 16 booleans, true when the key is pressed (10_state.md R40). -/
abbrev Keys := Vector Bool 16

/-- The display buffer: 64 columns of 32 one-bit pixels, column 0 at the left, row 0 at the top (10_state.md R39). -/
abbrev Display := Vector (Vector Bool 32) 64

/-- `zext_16(v)` of R10. -/
abbrev zext16 {n : Nat} (v : BitVec n) : Word := v.setWidth 16

end Sys2Proof
end

