-- ==== Sys2Proof/Config.lean ====
section
/-! DEFINITION. What an implementation fixes (00_scope.md R8), as one record the state carries unchanged, and the two
values the spec leaves to a draw (RAND, KEY_CHOICE), as opaque constants. -/

namespace Sys2Proof

/-- SHIFT_SRC: the register 8XY6 and 8XYE shift (R8, D11). -/
inductive ShiftSrc where
  /-- V[X] is shifted in place; the spec's reference value. -/
  | vx
  /-- V[Y] is shifted into V[X]. -/
  | vy
  deriving DecidableEq, Repr

/-- INDEX_ADVANCE: what FX55 and FX65 leave in I (R8, D12). -/
inductive IndexAdvance where
  /-- I keeps its value; the spec's reference value. -/
  | unchanged
  /-- I becomes I + X + 1. -/
  | advance
  deriving DecidableEq, Repr

/-- The parameters "the model takes … as arguments" (00_scope.md R8). They are data of the state that no operation
changes, so a statement about every state holds for every value of them (log entries 6, 8, 9 and 10). -/
structure Params where
  /-- SHIFT_SRC. -/
  shiftSrc : ShiftSrc
  /-- INDEX_ADVANCE. -/
  indexAdvance : IndexAdvance
  /-- FONT_DATA: the glyph bytes RESET copies to 0x050. -/
  fontData : Vector Byte 80
  /-- RESET_V. -/
  resetV : Vector Byte 16
  /-- RESET_I. -/
  resetI : Word
  /-- RESET_DT. -/
  resetDT : Byte
  /-- RESET_ST. -/
  resetST : Byte
  /-- RESET_STACK. -/
  resetStack : Vector Word 16
  /-- RESET_DISPLAY. -/
  resetDisplay : Display
  /-- MEM_INIT, as a memory (Machine/Memory.lean): reading it at `a` gives MEM_INIT[a]. -/
  memInit : List Host.Cell
  deriving DecidableEq, Repr

/-- RAND, where the host has injected no byte: draw number `n` of the Random Source. FREE VALUE: any byte
(10_state.md R41, 42_register_alu.md R161, D26; log entry 11). -/
opaque Config.randByte : Nat → Byte

/-- KEY_CHOICE, draw number `n`: it selects, modulo their number, one of several newly pressed keys. FREE VALUE
(45_timers_keys.md R227, D17; log entry 12). -/
opaque Config.keyChoice : Nat → Nat

end Sys2Proof
end

