-- ==== Sys2Proof/Machine/Reference.lean ====
section
/-! DEFINITION. Fixed addresses and sizes (00_scope.md R7) and the reference values of the parameters (R8), which
State.reset uses: the spec's own reference instantiation (10_state.md R45, 95_test_vectors.md). -/

namespace Sys2Proof.Machine

/-- MEM_SIZE (R7). -/
abbrev memSize : Nat := 4096

/-- FONT_BASE (R7, 20_memory.md R68, C8). -/
abbrev fontBase : Nat := 0x050

/-- PROG_BASE (R7, 20_memory.md R67). -/
abbrev progBase : Nat := 0x200

/-- MAX_ROM = MEM_SIZE − PROG_BASE (R7, R67). -/
abbrev maxRom : Nat := 3584

/-- The glyphs of 0 to 7 in the reference FONT_DATA (20_memory.md R70). -/
def referenceFontLow : Vector Byte 40 := #v[
  0xF0, 0x90, 0x90, 0x90, 0xF0,
  0x20, 0x60, 0x20, 0x20, 0x70,
  0xF0, 0x10, 0xF0, 0x80, 0xF0,
  0xF0, 0x10, 0xF0, 0x10, 0xF0,
  0x90, 0x90, 0xF0, 0x10, 0x10,
  0xF0, 0x80, 0xF0, 0x10, 0xF0,
  0xF0, 0x80, 0xF0, 0x90, 0xF0,
  0xF0, 0x10, 0x20, 0x40, 0x40]

/-- The glyphs of 8 to F in the reference FONT_DATA (20_memory.md R70). -/
def referenceFontHigh : Vector Byte 40 := #v[
  0xF0, 0x90, 0xF0, 0x90, 0xF0,
  0xF0, 0x90, 0xF0, 0x10, 0xF0,
  0xF0, 0x90, 0xF0, 0x90, 0x90,
  0xE0, 0x90, 0xE0, 0x90, 0xE0,
  0xF0, 0x80, 0x80, 0x80, 0xF0,
  0xE0, 0x90, 0x90, 0x90, 0xE0,
  0xF0, 0x80, 0xF0, 0x80, 0xF0,
  0xF0, 0x80, 0xF0, 0x80, 0x80]

/-- The reference FONT_DATA (20_memory.md R70; the spec marks its bytes as general knowledge; log entry 8). -/
def referenceFont : Vector Byte 80 := referenceFontLow ++ referenceFontHigh

/-- A display with every pixel unset. -/
def blankDisplay : Display := Vector.replicate 64 (Vector.replicate 32 false)

/-- A keyboard sample with no key pressed. -/
def noKeys : Keys := Vector.replicate 16 false

/-- The reference value of every parameter (R8). `memInit` lists nothing: outside the font it reads 0x00
(Machine/Memory.lean). DESIGN CHOICE (log entries 6, 8, 9 and 10). -/
def referenceParams : Params where
  shiftSrc := .vx
  indexAdvance := .unchanged
  fontData := referenceFont
  resetV := Vector.replicate 16 0
  resetI := 0
  resetDT := 0
  resetST := 0
  resetStack := Vector.replicate 16 0
  resetDisplay := blankDisplay
  memInit := []

end Sys2Proof.Machine
end

