-- ==== Sys2Proof/Machine/Memory.lean ====
section
/-! DEFINITION. The 4096-byte memory (20_memory.md R60) as a list of (address, byte) cells in one canonical form, with the
byte accesses every operation is built from (R62, R71). -/

namespace Sys2Proof.Machine

/-- The listed cells: addresses strictly rising, below 4096, none equal to what an unlisted address reads as. -/
abbrev Memory := List Host.Cell

/-- What an unlisted address reads as: the spec's reference reset contents, the font at 0x050–0x09F (R68, R70) and 0x00
elsewhere (R45). DESIGN CHOICE (log entry 8). -/
def Memory.unlisted (a : Nat) : Byte :=
  if h : fontBase ≤ a ∧ a < fontBase + 80 then referenceFont.get ⟨a - fontBase, by omega⟩ else 0

/-- `MemRead(a, 1)` (00_scope.md R11). -/
def Memory.read : Memory → Nat → Byte
  | [], a => Memory.unlisted a
  | (k, c) :: m, a => if k = a then c else Memory.read m a

/-- Puts `(a, b)` in front of `m`, unless an unlisted `a` reads as `b`. -/
def Memory.cons (a : Nat) (b : Byte) (m : Memory) : Memory :=
  if b = Memory.unlisted a then m else (a, b) :: m

/-- `MemWrite(a, 1, b)` (00_scope.md R11). -/
def Memory.write : Memory → Nat → Byte → Memory
  | [], a, b => Memory.cons a b []
  | (k, c) :: m, a, b =>
    if a < k then Memory.cons a b ((k, c) :: m)
    else if a = k then Memory.cons a b m
    else (k, c) :: Memory.write m a b

/-- Writes the bytes in increasing address order from `a` (20_memory.md R71). -/
def Memory.writeBytes : Memory → Nat → List Byte → Memory
  | m, _, [] => m
  | m, a, b :: bs => Memory.writeBytes (m.write a b) (a + 1) bs

/-- Every listed cell from address `lo` on: rising addresses inside the memory, no cell that an unlisted address equals. -/
def Memory.wfFrom : Nat → Memory → Bool
  | _, [] => true
  | lo, (k, c) :: m => decide (lo ≤ k) && decide (k < memSize) && decide (c ≠ Memory.unlisted k) && Memory.wfFrom (k + 1) m

/-- The canonical form. -/
def Memory.wf (m : Memory) : Bool := Memory.wfFrom 0 m

/-- Whether the `n` bytes from `base` on all lie in 0x000–0xFFF, checked before the first access (20_memory.md R61, R72).
An access of no bytes is always in range (44_display.md R205). -/
def inMemory (base n : Nat) : Bool := n == 0 || decide (base + n - 1 ≤ 0xFFF)

/-- The memory RESET leaves: MEM_INIT with FONT_DATA copied to 0x050 (70_reset_and_hazards.md R280). -/
def Memory.initial (p : Params) : Memory := Memory.writeBytes p.memInit fontBase p.fontData.toList

end Sys2Proof.Machine
end

