-- ==== Sys2Proof/WellFormed.lean ====
section
/-! DEFINITION. Well-formedness: of an instruction (each field fits its width, 30_encoding.md R91), of a ROM (it fits the
program region, 20_memory.md R67) and of the parameters (MEM_INIT is a memory). -/

namespace Sys2Proof

/-- The operand formats (30_encoding.md R92). -/
inductive Format where
  | f0 | fa | fxb | fxy | fxyn | fx
  deriving DecidableEq, Repr

/-- One operand field: its lowest bit in the word, its width and its value (R91). -/
structure Field where
  lo : Nat
  width : Nat
  value : Nat
  deriving DecidableEq, Repr

/-- A field's value fits its width. -/
def Field.fits (f : Field) : Bool := decide (f.value < 2 ^ f.width)

/-- The X field, `w[11:8]`. -/
def Field.x (r : RegIdx) : Field := ⟨8, 4, r.val⟩
/-- The Y field, `w[7:4]`. -/
def Field.y (r : RegIdx) : Field := ⟨4, 4, r.val⟩
/-- The N field, `w[3:0]`. -/
def Field.n (h : Height) : Field := ⟨0, 4, h.val⟩
/-- The NN field, `w[7:0]`. -/
def Field.nn (b : Byte) : Field := ⟨0, 8, b.toNat⟩
/-- The NNN field, `w[11:0]`. -/
def Field.nnn (a : Addr12) : Field := ⟨0, 12, a.toNat⟩

/-- An instruction's operand fields, high to low (R92). -/
def Instr.fields : Instr → List Field
  | .cls | .ret => []
  | .jp a | .call a | .ldI a | .jpV0 a => [.nnn a]
  | .seImm x b | .sneImm x b | .ldImm x b | .addImm x b | .rnd x b => [.x x, .nn b]
  | .seReg x y | .ldReg x y | .orReg x y | .andReg x y | .xorReg x y | .addReg x y | .subReg x y | .shr x y
  | .subn x y | .shl x y | .sneReg x y => [.x x, .y y]
  | .drw x y n => [.x x, .y y, .n n]
  | .skp x | .sknp x | .ldVxDt x | .ldVxK x | .ldDtVx x | .ldStVx x | .addI x | .ldF x | .ldB x | .stRegs x
  | .ldRegs x => [.x x]

/-- An instruction's format (R92). -/
def Instr.format : Instr → Format
  | .cls | .ret => .f0
  | .jp _ | .call _ | .ldI _ | .jpV0 _ => .fa
  | .seImm _ _ | .sneImm _ _ | .ldImm _ _ | .addImm _ _ | .rnd _ _ => .fxb
  | .seReg _ _ | .ldReg _ _ | .orReg _ _ | .andReg _ _ | .xorReg _ _ | .addReg _ _ | .subReg _ _ | .shr _ _
  | .subn _ _ | .shl _ _ | .sneReg _ _ => .fxy
  | .drw _ _ _ => .fxyn
  | .skp _ | .sknp _ | .ldVxDt _ | .ldVxK _ | .ldDtVx _ | .ldStVx _ | .addI _ | .ldF _ | .ldB _ | .stRegs _
  | .ldRegs _ => .fx

/-- Every operand field fits its width. The operand types already see to it (`Instr.wellFormed_all` in Laws). -/
def Instr.wellFormed (i : Instr) : Bool := i.fields.all Field.fits

/-- A ROM that fits the program region: at most MAX_ROM bytes (20_memory.md R67). -/
def romFits (rom : List Byte) : Bool := decide (rom.length ≤ Machine.maxRom)

/-- Parameters whose MEM_INIT is a memory in canonical form. -/
def Params.wf (p : Params) : Bool := Machine.Memory.wf p.memInit

end Sys2Proof
end

