-- ==== Sys2Proof/Decode.lean ====
section
/-! DEFINITION. Decoding and encoding of the 16-bit instruction word (30_encoding.md R90–R99), both written from the opcode
map R95, which stands here as a table too. -/

namespace Sys2Proof

/-- Why bytes are no instruction. -/
inductive DecodeError where
  /-- Fewer than the two bytes of a word (R90). -/
  | truncated
  /-- A word that matches no row: INVALID (R97). -/
  | invalidOpcode (w : Word)
  deriving DecidableEq, Repr

/-- `op`, `w[15:12]`. -/
def fieldOp (w : Word) : Nat := (w.extractLsb' 12 4).toNat
/-- `X`, `w[11:8]`. -/
def fieldX (w : Word) : RegIdx := (w.extractLsb' 8 4).toFin
/-- `Y`, `w[7:4]`. -/
def fieldY (w : Word) : RegIdx := (w.extractLsb' 4 4).toFin
/-- `N`, `w[3:0]`. -/
def fieldN (w : Word) : Height := (w.extractLsb' 0 4).toFin
/-- `NN`, `w[7:0]`. -/
def fieldNN (w : Word) : Byte := w.extractLsb' 0 8
/-- `NNN`, `w[11:0]`. -/
def fieldNNN (w : Word) : Addr12 := w.extractLsb' 0 12

/-- Family 0 is selected by the whole word (R94). -/
def decode0 (w : Word) : Except DecodeError Instr :=
  if w = 0x00E0 then .ok .cls else if w = 0x00EE then .ok .ret else .error (.invalidOpcode w)

/-- Family 8 is selected by N (R94). -/
def decode8 (w : Word) : Except DecodeError Instr :=
  match (fieldN w).val with
  | 0x0 => .ok (.ldReg (fieldX w) (fieldY w))
  | 0x1 => .ok (.orReg (fieldX w) (fieldY w))
  | 0x2 => .ok (.andReg (fieldX w) (fieldY w))
  | 0x3 => .ok (.xorReg (fieldX w) (fieldY w))
  | 0x4 => .ok (.addReg (fieldX w) (fieldY w))
  | 0x5 => .ok (.subReg (fieldX w) (fieldY w))
  | 0x6 => .ok (.shr (fieldX w) (fieldY w))
  | 0x7 => .ok (.subn (fieldX w) (fieldY w))
  | 0xE => .ok (.shl (fieldX w) (fieldY w))
  | _ => .error (.invalidOpcode w)

/-- Family E is selected by NN (R94). -/
def decodeE (w : Word) : Except DecodeError Instr :=
  match (fieldNN w).toNat with
  | 0x9E => .ok (.skp (fieldX w))
  | 0xA1 => .ok (.sknp (fieldX w))
  | _ => .error (.invalidOpcode w)

/-- Family F is selected by NN (R94). -/
def decodeF (w : Word) : Except DecodeError Instr :=
  match (fieldNN w).toNat with
  | 0x07 => .ok (.ldVxDt (fieldX w))
  | 0x0A => .ok (.ldVxK (fieldX w))
  | 0x15 => .ok (.ldDtVx (fieldX w))
  | 0x18 => .ok (.ldStVx (fieldX w))
  | 0x1E => .ok (.addI (fieldX w))
  | 0x29 => .ok (.ldF (fieldX w))
  | 0x33 => .ok (.ldB (fieldX w))
  | 0x55 => .ok (.stRegs (fieldX w))
  | 0x65 => .ok (.ldRegs (fieldX w))
  | _ => .error (.invalidOpcode w)

/-- The instruction of a word, or INVALID by name (R94, R95, R97). -/
def decode (w : Word) : Except DecodeError Instr :=
  match fieldOp w with
  | 0x0 => decode0 w
  | 0x1 => .ok (.jp (fieldNNN w))
  | 0x2 => .ok (.call (fieldNNN w))
  | 0x3 => .ok (.seImm (fieldX w) (fieldNN w))
  | 0x4 => .ok (.sneImm (fieldX w) (fieldNN w))
  | 0x5 => if fieldN w = 0 then .ok (.seReg (fieldX w) (fieldY w)) else .error (.invalidOpcode w)
  | 0x6 => .ok (.ldImm (fieldX w) (fieldNN w))
  | 0x7 => .ok (.addImm (fieldX w) (fieldNN w))
  | 0x8 => decode8 w
  | 0x9 => if fieldN w = 0 then .ok (.sneReg (fieldX w) (fieldY w)) else .error (.invalidOpcode w)
  | 0xA => .ok (.ldI (fieldNNN w))
  | 0xB => .ok (.jpV0 (fieldNNN w))
  | 0xC => .ok (.rnd (fieldX w) (fieldNN w))
  | 0xD => .ok (.drw (fieldX w) (fieldY w) (fieldN w))
  | 0xE => decodeE w
  | 0xF => decodeF w
  | _ => .error (.invalidOpcode w)

/-- A word from its two bytes, the first the more significant (20_memory.md R63). -/
def wordOfBytes (hi lo : Byte) : Word := hi ++ lo

/-- The two bytes of a word in memory order (20_memory.md R63). -/
def bytesOfWord (w : Word) : List Byte := [w.extractLsb' 8 8, w.extractLsb' 0 8]

/-- The first instruction of a byte string and the bytes after it; every instruction is two bytes (R90, R99). -/
def decodeBytes : List Byte → Except DecodeError (Instr × List Byte)
  | hi :: lo :: rest => (decode (wordOfBytes hi lo)).map fun i => (i, rest)
  | _ => .error .truncated

/-- `X<<8` as a word. -/
def putX (x : RegIdx) : Word := BitVec.ofNat 16 x.val <<< 8
/-- `Y<<4` as a word. -/
def putY (y : RegIdx) : Word := BitVec.ofNat 16 y.val <<< 4
/-- `N` as a word. -/
def putN (n : Height) : Word := BitVec.ofNat 16 n.val

/-- The word of an instruction (R95 and each instruction's own rule). -/
def encode : Instr → Word
  | .cls => 0x00E0
  | .ret => 0x00EE
  | .jp nnn => 0x1000 ||| zext16 nnn
  | .call nnn => 0x2000 ||| zext16 nnn
  | .seImm x nn => 0x3000 ||| putX x ||| zext16 nn
  | .sneImm x nn => 0x4000 ||| putX x ||| zext16 nn
  | .seReg x y => 0x5000 ||| putX x ||| putY y
  | .ldImm x nn => 0x6000 ||| putX x ||| zext16 nn
  | .addImm x nn => 0x7000 ||| putX x ||| zext16 nn
  | .ldReg x y => 0x8000 ||| putX x ||| putY y
  | .orReg x y => 0x8001 ||| putX x ||| putY y
  | .andReg x y => 0x8002 ||| putX x ||| putY y
  | .xorReg x y => 0x8003 ||| putX x ||| putY y
  | .addReg x y => 0x8004 ||| putX x ||| putY y
  | .subReg x y => 0x8005 ||| putX x ||| putY y
  | .shr x y => 0x8006 ||| putX x ||| putY y
  | .subn x y => 0x8007 ||| putX x ||| putY y
  | .shl x y => 0x800E ||| putX x ||| putY y
  | .sneReg x y => 0x9000 ||| putX x ||| putY y
  | .ldI nnn => 0xA000 ||| zext16 nnn
  | .jpV0 nnn => 0xB000 ||| zext16 nnn
  | .rnd x nn => 0xC000 ||| putX x ||| zext16 nn
  | .drw x y n => 0xD000 ||| putX x ||| putY y ||| putN n
  | .skp x => 0xE09E ||| putX x
  | .sknp x => 0xE0A1 ||| putX x
  | .ldVxDt x => 0xF007 ||| putX x
  | .ldVxK x => 0xF00A ||| putX x
  | .ldDtVx x => 0xF015 ||| putX x
  | .ldStVx x => 0xF018 ||| putX x
  | .addI x => 0xF01E ||| putX x
  | .ldF x => 0xF029 ||| putX x
  | .ldB x => 0xF033 ||| putX x
  | .stRegs x => 0xF055 ||| putX x
  | .ldRegs x => 0xF065 ||| putX x

/-- One row of the opcode map (R95): a word matches it when `(w & mask) == pattern`. -/
structure Row where
  mnemonic : String
  pattern : Word
  mask : Word
  deriving DecidableEq, Repr

/-- A word matches a row (R95). -/
def Row.matches (r : Row) (w : Word) : Bool := w &&& r.mask == r.pattern

/-- The row of R95 an instruction belongs to; mnemonics as spec/opcode_table.json writes them. -/
def Instr.row : Instr → Row
  | .cls => ⟨"CLS", 0x00E0, 0xFFFF⟩
  | .ret => ⟨"RET", 0x00EE, 0xFFFF⟩
  | .jp _ => ⟨"JP_NNN", 0x1000, 0xF000⟩
  | .call _ => ⟨"CALL_NNN", 0x2000, 0xF000⟩
  | .seImm _ _ => ⟨"SE_VX__NN", 0x3000, 0xF000⟩
  | .sneImm _ _ => ⟨"SNE_VX__NN", 0x4000, 0xF000⟩
  | .seReg _ _ => ⟨"SE_VX__VY", 0x5000, 0xF00F⟩
  | .ldImm _ _ => ⟨"LD_VX__NN", 0x6000, 0xF000⟩
  | .addImm _ _ => ⟨"ADD_VX__NN", 0x7000, 0xF000⟩
  | .ldReg _ _ => ⟨"LD_VX__VY", 0x8000, 0xF00F⟩
  | .orReg _ _ => ⟨"OR_VX__VY", 0x8001, 0xF00F⟩
  | .andReg _ _ => ⟨"AND_VX__VY", 0x8002, 0xF00F⟩
  | .xorReg _ _ => ⟨"XOR_VX__VY", 0x8003, 0xF00F⟩
  | .addReg _ _ => ⟨"ADD_VX__VY", 0x8004, 0xF00F⟩
  | .subReg _ _ => ⟨"SUB_VX__VY", 0x8005, 0xF00F⟩
  | .shr _ _ => ⟨"SHR_VX__VY", 0x8006, 0xF00F⟩
  | .subn _ _ => ⟨"SUBN_VX__VY", 0x8007, 0xF00F⟩
  | .shl _ _ => ⟨"SHL_VX__VY", 0x800E, 0xF00F⟩
  | .sneReg _ _ => ⟨"SNE_VX__VY", 0x9000, 0xF00F⟩
  | .ldI _ => ⟨"LD_I__NNN", 0xA000, 0xF000⟩
  | .jpV0 _ => ⟨"JP_V0__NNN", 0xB000, 0xF000⟩
  | .rnd _ _ => ⟨"RND_VX__NN", 0xC000, 0xF000⟩
  | .drw _ _ _ => ⟨"DRW_VX__VY__N", 0xD000, 0xF000⟩
  | .skp _ => ⟨"SKP_VX", 0xE09E, 0xF0FF⟩
  | .sknp _ => ⟨"SKNP_VX", 0xE0A1, 0xF0FF⟩
  | .ldVxDt _ => ⟨"LD_VX__DT", 0xF007, 0xF0FF⟩
  | .ldVxK _ => ⟨"LD_VX__K", 0xF00A, 0xF0FF⟩
  | .ldDtVx _ => ⟨"LD_DT__VX", 0xF015, 0xF0FF⟩
  | .ldStVx _ => ⟨"LD_ST__VX", 0xF018, 0xF0FF⟩
  | .addI _ => ⟨"ADD_I__VX", 0xF01E, 0xF0FF⟩
  | .ldF _ => ⟨"LD_F__VX", 0xF029, 0xF0FF⟩
  | .ldB _ => ⟨"LD_B__VX", 0xF033, 0xF0FF⟩
  | .stRegs _ => ⟨"LD__I___VX", 0xF055, 0xF0FF⟩
  | .ldRegs _ => ⟨"LD_VX___I", 0xF065, 0xF0FF⟩

/-- One instruction of each row, operands zero, in the order of R95. -/
def rowInstrs : List Instr :=
  [.cls, .ret, .jp 0, .call 0, .seImm 0 0, .sneImm 0 0, .seReg 0 0, .ldImm 0 0, .addImm 0 0, .ldReg 0 0, .orReg 0 0,
   .andReg 0 0, .xorReg 0 0, .addReg 0 0, .subReg 0 0, .shr 0 0, .subn 0 0] ++
  [.shl 0 0, .sneReg 0 0, .ldI 0, .jpV0 0, .rnd 0 0, .drw 0 0 0, .skp 0, .sknp 0, .ldVxDt 0, .ldVxK 0, .ldDtVx 0,
   .ldStVx 0, .addI 0, .ldF 0, .ldB 0, .stRegs 0, .ldRegs 0]

/-- The opcode map as a table (R95). -/
def opcodeTable : List Row := rowInstrs.map Instr.row

/-- The word whose bits the table numbers as `w`: bit 0 least significant, bits at and above `nbits` zero. -/
def tableWord (nbits w : Nat) : Word := BitVec.ofNat 16 (w % 2 ^ nbits)

/-- The instruction the decoder reads from a table row's bits, laid out as memory holds them. -/
def decodeTableWord (nbits w : Nat) : Option Instr :=
  match decodeBytes (bytesOfWord (tableWord nbits w)) with
  | .ok (i, _) => some i
  | .error _ => none

end Sys2Proof
end

