-- ==== Sys2Proof/Machine/State.lean ====
section
/-! DEFINITION. The state of the core (10_state.md R46), its outputs (R44), the input lines of the host (R40, R41), the
host's operations still to come (R43) and the parameters (00_scope.md R8); the fatal causes, the refusals and reset. -/

namespace Sys2Proof.Machine

/-- The fatal causes (60_exceptions.md R241). A cause is taken as a NEXT state, `RS = Faulted(cause)` (R240), so that
TIMER_TICK and RESET still act on it; no step answers `Host.Outcome.fault` (log entry 5). -/
inductive Fault where
  /-- Code 1, raised by 2NNN with SP = 16 (R242). Safe: the spec gives it. -/
  | stackOverflow
  /-- Code 2, raised by 00EE with SP = 0 (R243). Safe: the spec gives it. -/
  | stackUnderflow
  /-- Code 3, raised by a fetch with PC + 1 > 0xFFF (R244). Safe: the spec gives it. -/
  | fetchOutOfRange
  /-- Code 4, raised by DXYN, FX33, FX55 and FX65 whose byte range passes 0xFFF (R245). Safe: the spec gives it. -/
  | dataOutOfRange
  /-- Code 5, raised by a fetch at an odd PC (R246). Safe: the spec's own decision D5. -/
  | misalignedFetch
  /-- Code 6, raised by EX9E and EXA1 with V[X] > 0x0F (R247). Safe: the spec's own decision D16. -/
  | keyIndexOutOfRange
  deriving DecidableEq, Repr

/-- The operations the model gives no meaning, as the spec tells it (40_step_cycle.md R120). -/
inductive Refusal where
  /-- Raised by exec's arm of an instruction that has no meaning in the model; no arm does. Safe. -/
  | notModelled (mnemonic : String)
  /-- Raised by a STEP while RS = Unloaded (R111, D4). Safe: no claim covers such a run. -/
  | stepBeforeLoad
  /-- Raised by FX1E when I + V[X] > 0xFFFF (43_index_memory.md R181, D13). Safe: no claim covers such a run. -/
  | indexOverflow
  /-- Raised by a LOAD while RS ≠ Unloaded (70_reset_and_hazards.md R284, D4). Safe: no claim covers such a run. -/
  | loadWhileLoaded
  deriving DecidableEq, Repr

/-- The run state RS (10_state.md R35). -/
inductive RunState where
  /-- No program is loaded. -/
  | unloaded
  /-- The next STEP fetches at PC. -/
  | running
  /-- An FX0A with destination `x` is suspended (R36). -/
  | awaitingKey (x : RegIdx)
  /-- A fatal fault has stopped the program (R38). -/
  | faulted (cause : Fault)
  deriving DecidableEq, Repr

/-- The report InvalidOpcode(pc, w) (60_exceptions.md R248). -/
structure InvalidReport where
  pc : Word
  w : Word
  deriving DecidableEq, Repr

/-- Why a LOAD failed (60_exceptions.md R249). -/
inductive LoadError where
  /-- LoadError(TOO_LARGE) (70_reset_and_hazards.md R283). -/
  | tooLarge
  deriving DecidableEq, Repr

/-- What the host does to the core (10_state.md R43, 60_exceptions.md R270). -/
inductive HostOp where
  /-- STEP: execute at most one instruction, sampling KEYS. -/
  | step
  /-- TIMER_TICK: decrement both timers. -/
  | timerTick
  /-- LOAD(rom). -/
  | load (rom : List Byte)
  /-- RESET. -/
  | reset
  /-- Write the keyboard lines. -/
  | writeKeys (k : Keys)
  /-- Give the Random Source its next byte. -/
  | supplyRand (b : Byte)
  deriving DecidableEq, Repr

structure State where
  /-- V0–VF (R20). -/
  v : Vector Byte 16
  /-- I (R24). -/
  i : Word
  /-- PC (R26). -/
  pc : Word
  /-- SP, the number of entries on the call stack, 0 to 16 (R30). -/
  sp : Fin 17
  /-- The call stack's slots (R29). -/
  stack : Vector Word 16
  /-- DT (R32). -/
  dt : Byte
  /-- ST (R33). -/
  st : Byte
  /-- The memory (20_memory.md R60). -/
  mem : Memory
  /-- The display buffer (R39). -/
  disp : Display
  /-- The run state (R35). -/
  rs : RunState
  /-- KB_PREV (R37). -/
  kbPrev : Keys
  /-- Output: the InvalidOpcode report of the last STEP (R44; log entry 15). -/
  report : Option InvalidReport
  /-- Output: the load error of the last LOAD (R44; log entry 15). -/
  loadError : Option LoadError
  /-- Input: the keyboard lines KEYS, which each STEP samples (R40; log entry 13). -/
  keys : Keys
  /-- Input: bytes injected into the Random Source and not drawn yet, oldest first (R41; log entry 11). -/
  randIn : List Byte
  /-- The model's own: the host's operations still to come, oldest first; none listed means STEP (log entry 1). -/
  host : List HostOp
  /-- The model's own: how many free values have been drawn (log entries 11 and 12). -/
  draws : Nat
  /-- The parameters of 00_scope.md R8, which nothing changes. -/
  params : Params
  deriving DecidableEq, Repr

/-- The state RESET leaves (70_reset_and_hazards.md R280, 10_state.md R45). PC, which RESET does not set, the input
lines and the model's own fields are at their start values (log entries 1, 7, 11 and 13). -/
def State.initial (p : Params) : State where
  v := p.resetV
  i := p.resetI
  pc := 0
  sp := 0
  stack := p.resetStack
  dt := p.resetDT
  st := p.resetST
  mem := Memory.initial p
  disp := p.resetDisplay
  rs := .unloaded
  kbPrev := noKeys
  report := none
  loadError := none
  keys := noKeys
  randIn := []
  host := []
  draws := 0
  params := p

/-- The core right after power-on reset (R281) under the spec's reference parameters (R8). Its memory lists nothing. -/
def State.reset : State := State.initial referenceParams

/-- The outcome of a step of this machine. -/
abbrev Result := Host.Outcome State Fault Refusal

end Sys2Proof.Machine
end

