-- ==== Sys2Proof/Machine/Ops.lean ====
section
/-! DEFINITION. The named operations over registers, PC, the call stack and memory, the fetch, and taking a fatal fault.
There is no return from one: only the host's RESET leaves `Faulted` (60_exceptions.md R251, R281; Machine/HostOps.lean). -/

namespace Sys2Proof.Machine

/-- Reads V[x] (00_scope.md R11). -/
def State.reg (s : State) (x : RegIdx) : Byte := s.v.get x

/-- Writes V[x] (00_scope.md R11). -/
def State.setReg (s : State) (x : RegIdx) (b : Byte) : State := { s with v := s.v.set x.val b }

/-- Writes all sixteen general registers. -/
def State.setV (s : State) (v : Vector Byte 16) : State := { s with v := v }

/-- Writes PC. Nothing checks it here (10_state.md R27). -/
def State.setPc (s : State) (a : Word) : State := { s with pc := a }

/-- Writes I. Nothing checks it here (10_state.md R25). -/
def State.setI (s : State) (a : Word) : State := { s with i := a }

/-- Writes DT. -/
def State.setDt (s : State) (b : Byte) : State := { s with dt := b }

/-- Writes ST. -/
def State.setSt (s : State) (b : Byte) : State := { s with st := b }

/-- Replaces the memory. -/
def State.setMem (s : State) (m : Memory) : State := { s with mem := m }

/-- Replaces the display buffer. -/
def State.setDisp (s : State) (d : Display) : State := { s with disp := d }

/-- Writes the run state. -/
def State.setRs (s : State) (r : RunState) : State := { s with rs := r }

/-- Writes KB_PREV. -/
def State.setKbPrev (s : State) (k : Keys) : State := { s with kbPrev := k }

/-- Sets the InvalidOpcode report output. -/
def State.setReport (s : State) (r : Option InvalidReport) : State := { s with report := r }

/-- Sets SP and the call stack. -/
def State.setStack (s : State) (sp : Fin 17) (stack : Vector Word 16) : State := { s with sp := sp, stack := stack }

/-- Sets the Random Source's injected bytes and the count of free values drawn. -/
def State.setDraws (s : State) (r : List Byte) (n : Nat) : State := { s with randIn := r, draws := n }

/-- `PC <- PC + 2` (40_step_cycle.md R117). -/
def State.advance (s : State) : State := s.setPc (s.pc + 2)

/-- Pushes a return address: writes `stack[SP]`, then increments SP; none when SP = 16 (10_state.md R30, R31). -/
def State.push (s : State) (a : Word) : Option State :=
  if h : s.sp.val < 16 then some (s.setStack ⟨s.sp.val + 1, by omega⟩ (s.stack.set s.sp.val a)) else none

/-- Pops a return address: decrements SP, then reads `stack[SP]`; none when SP = 0 (10_state.md R30, R31). -/
def State.pop (s : State) : Option (Word × State) :=
  if h : 0 < s.sp.val then
    some (s.stack[s.sp.val - 1]'(by omega), s.setStack ⟨s.sp.val - 1, by omega⟩ s.stack)
  else none

/-- TAKING A FATAL FAULT, `raise Fatal(cause)` (60_exceptions.md R240): RS becomes Faulted(cause) and nothing else
changes; PC keeps the faulting address. -/
def State.fatal (s : State) (c : Fault) : Result := .next (s.setRs (.faulted c))

/-- The numeric code of a fatal cause (60_exceptions.md R241). -/
def Fault.code : Fault → Nat
  | .stackOverflow => 1
  | .stackUnderflow => 2
  | .fetchOutOfRange => 3
  | .dataOutOfRange => 4
  | .misalignedFetch => 5
  | .keyIndexOutOfRange => 6

/-- Instruction fetch at PC: the range check, then the alignment check, then the big-endian word (20_memory.md R63, R64). -/
def State.fetch (s : State) : Except Fault Word :=
  if s.pc.toNat + 1 > 0xFFF then .error .fetchOutOfRange
  else if s.pc.toNat % 2 = 1 then .error .misalignedFetch
  else .ok (wordOfBytes (s.mem.read s.pc.toNat) (s.mem.read (s.pc.toNat + 1)))

/-- The byte the Random Source supplies next, and the state after the draw (10_state.md R41): the oldest injected byte,
or else a free value. -/
def State.drawRand (s : State) : Byte × State :=
  match s.randIn with
  | b :: bs => (b, s.setDraws bs s.draws)
  | [] => (Config.randByte s.draws, s.setDraws [] (s.draws + 1))

/-- KEY_CHOICE: the key FX0A stores of the newly pressed keys `k :: ks` (45_timers_keys.md R227): the only one, or any
one of them by a free value. -/
def chooseKey (draw : Nat) (k : KeyIdx) : List KeyIdx → KeyIdx
  | [] => k
  | k' :: ks => (k :: k' :: ks).getD (Config.keyChoice draw % (ks.length + 2)) k

end Sys2Proof.Machine
end

