-- ==== Sys2Proof/Machine/Flags.lean ====
section
/-! DEFINITION. Every value an instruction writes into VF as a flag (10_state.md R22, 42_register_alu.md R163), computed
from operands read before any write (R23), and the order in which result and flag are written. -/

namespace Sys2Proof.Machine

/-- A flag's value: 1 or 0. -/
def flagByte (b : Bool) : Byte := if b then 1 else 0

/-- 8XY4: the exact sum exceeds 0xFF (42_register_alu.md R156). -/
def carryFlag (a b : Byte) : Byte := flagByte (decide (a.toNat + b.toNat > 0xFF))

/-- 8XY5 with (VX, VY), 8XY7 with (VY, VX): the minuend is strictly greater (42_register_alu.md R157, R159). -/
def notBorrowFlag (a b : Byte) : Byte := flagByte (decide (a.toNat > b.toNat))

/-- 8XY6: bit 0 of the value before the shift (42_register_alu.md R158, C5). -/
def shiftedOutRight (a : Byte) : Byte := flagByte (a.getLsbD 0)

/-- 8XYE: bit 7 of the value before the shift (42_register_alu.md R160, C5). -/
def shiftedOutLeft (a : Byte) : Byte := flagByte (a.getLsbD 7)

/-- Writes the result into V[X] and then the flag into VF, so that VF holds the flag when X = F (10_state.md R23, D9),
and advances PC. -/
def State.writeWithFlag (s : State) (x : RegIdx) (result flag : Byte) : State :=
  ((s.setReg x result).setReg 0xF flag).advance

end Sys2Proof.Machine
end

