-- ==== Sys2Proof/Machine/Operands.lean ====
section
/-! DEFINITION. The operand forms: the shifted register, the addresses formed from NNN, V0 and a glyph number, the key a
register names, the newly pressed keys, and the register blocks of FX55 and FX65. -/

namespace Sys2Proof.Machine

/-- The value 8XY6 and 8XYE shift: V[X] or V[Y], by SHIFT_SRC (42_register_alu.md R158, R160, D11). -/
def State.shiftOperand (s : State) (x y : RegIdx) : Byte :=
  match s.params.shiftSrc with
  | .vx => s.reg x
  | .vy => s.reg y

/-- `FONT_BASE + 5 * zext_16(V[X])`, not masked to a nibble (43_index_memory.md R182, D14). -/
def glyphAddress (b : Byte) : Word := BitVec.ofNat 16 fontBase + 5 * zext16 b

/-- `zext_16(NNN) + zext_16(V[0])`, not truncated to 12 bits (41_control_flow.md R137, D19). -/
def offsetTarget (nnn : Addr12) (v0 : Byte) : Word := zext16 nnn + zext16 v0

/-- The key V[X] names, none when V[X] > 0x0F (45_timers_keys.md R223, R224). -/
def State.keyOperand (s : State) (x : RegIdx) : Option KeyIdx :=
  if h : (s.reg x).toNat < 16 then some ⟨(s.reg x).toNat, h⟩ else none

/-- Key `k` is newly pressed at this STEP: down in KEYS, up in KB_PREV (45_timers_keys.md R227). -/
def State.newlyPressed (s : State) (k : KeyIdx) : Bool := s.keys.get k && !s.kbPrev.get k

/-- NEW, the newly pressed keys, lowest first (45_timers_keys.md R225). -/
def State.newKeys (s : State) : List KeyIdx := (List.finRange 16).filter s.newlyPressed

/-- V0 to V[X], the bytes FX55 stores (43_index_memory.md R184). -/
def State.regBlock (s : State) (x : RegIdx) : List Byte := s.v.toList.take (x.val + 1)

/-- The registers after FX65: V[k] from `I + k` for k up to X, the others unchanged (43_index_memory.md R185). -/
def State.loadedBlock (s : State) (x : RegIdx) : Vector Byte 16 :=
  Vector.ofFn fun k => if k ≤ x then s.mem.read (s.i.toNat + k.val) else s.reg k

/-- What FX55 and FX65 leave in I, by INDEX_ADVANCE (43_index_memory.md R186, D12). -/
def State.indexAfterBlock (s : State) (x : RegIdx) : Word :=
  match s.params.indexAdvance with
  | .unchanged => s.i
  | .advance => s.i + BitVec.ofNat 16 (x.val + 1)

/-- The hundreds, tens and ones of a byte (43_index_memory.md R183). -/
def decimalDigits (b : Byte) : List Byte :=
  [BitVec.ofNat 8 (b.toNat / 100), BitVec.ofNat 8 (b.toNat / 10 % 10), BitVec.ofNat 8 (b.toNat % 10)]

end Sys2Proof.Machine
end

