-- ==== Sys2Proof/Machine/Alu.lean ====
section
/-! DEFINITION. Register loads and arithmetic (42_register_alu.md): 8-bit, unsigned, modulo 256 (R162). -/

namespace Sys2Proof.Machine

/-- Writes an ordinary result into V[X], touching no flag, and advances PC. -/
def State.writeResult (s : State) (x : RegIdx) (result : Byte) : State := (s.setReg x result).advance

/-- 6XNN LD VX, NN (R150). -/
def execLdImm (x : RegIdx) (nn : Byte) (s : State) : Result := .next (s.writeResult x nn)

/-- 7XNN ADD VX, NN (R151). -/
def execAddImm (x : RegIdx) (nn : Byte) (s : State) : Result := .next (s.writeResult x (s.reg x + nn))

/-- 8XY0 LD VX, VY (R152). -/
def execLdReg (x y : RegIdx) (s : State) : Result := .next (s.writeResult x (s.reg y))

/-- 8XY1 OR VX, VY (R153). -/
def execOrReg (x y : RegIdx) (s : State) : Result := .next (s.writeResult x (s.reg x ||| s.reg y))

/-- 8XY2 AND VX, VY (R154). -/
def execAndReg (x y : RegIdx) (s : State) : Result := .next (s.writeResult x (s.reg x &&& s.reg y))

/-- 8XY3 XOR VX, VY (R155). -/
def execXorReg (x y : RegIdx) (s : State) : Result := .next (s.writeResult x (s.reg x ^^^ s.reg y))

/-- 8XY4 ADD VX, VY (R156). -/
def execAddReg (x y : RegIdx) (s : State) : Result :=
  .next (s.writeWithFlag x (s.reg x + s.reg y) (carryFlag (s.reg x) (s.reg y)))

/-- 8XY5 SUB VX, VY (R157). -/
def execSubReg (x y : RegIdx) (s : State) : Result :=
  .next (s.writeWithFlag x (s.reg x - s.reg y) (notBorrowFlag (s.reg x) (s.reg y)))

/-- 8XY6 SHR VX, VY (R158). -/
def execShr (x y : RegIdx) (s : State) : Result :=
  .next (s.writeWithFlag x (s.shiftOperand x y >>> 1) (shiftedOutRight (s.shiftOperand x y)))

/-- 8XY7 SUBN VX, VY (R159). -/
def execSubn (x y : RegIdx) (s : State) : Result :=
  .next (s.writeWithFlag x (s.reg y - s.reg x) (notBorrowFlag (s.reg y) (s.reg x)))

/-- 8XYE SHL VX, VY (R160). -/
def execShl (x y : RegIdx) (s : State) : Result :=
  .next (s.writeWithFlag x (s.shiftOperand x y <<< 1) (shiftedOutLeft (s.shiftOperand x y)))

/-- CXNN RND VX, NN (R161). -/
def execRnd (x : RegIdx) (nn : Byte) (s : State) : Result :=
  .next (s.drawRand.2.writeResult x (s.drawRand.1 &&& nn))

end Sys2Proof.Machine
end

