-- ==== Sys2Proof/Machine/Index.lean ====
section
/-! DEFINITION. The index register and memory transfers (43_index_memory.md). The whole byte range is checked before
any write (20_memory.md R72). -/

namespace Sys2Proof.Machine

/-- ANNN LD I, NNN (R180). -/
def execLdI (nnn : Addr12) (s : State) : Result := .next (s.setI (zext16 nnn)).advance

/-- FX1E ADD I, VX (R181): the sum is exact; past 0xFFFF the spec's model refuses the STEP (D13; log entry 4). -/
def execAddI (x : RegIdx) (s : State) : Result :=
  if s.i.toNat + (s.reg x).toNat > 0xFFFF then .refused .indexOverflow
  else .next (s.setI (s.i + zext16 (s.reg x))).advance

/-- FX29 LD F, VX (R182). -/
def execLdF (x : RegIdx) (s : State) : Result := .next (s.setI (glyphAddress (s.reg x))).advance

/-- FX33 LD B, VX (R183). -/
def execLdB (x : RegIdx) (s : State) : Result :=
  if inMemory s.i.toNat 3 then
    .next (s.setMem (s.mem.writeBytes s.i.toNat (decimalDigits (s.reg x)))).advance
  else s.fatal .dataOutOfRange

/-- FX55 LD [I], VX (R184, R186). -/
def execStRegs (x : RegIdx) (s : State) : Result :=
  if inMemory s.i.toNat (x.val + 1) then
    .next ((s.setMem (s.mem.writeBytes s.i.toNat (s.regBlock x))).setI (s.indexAfterBlock x)).advance
  else s.fatal .dataOutOfRange

/-- FX65 LD VX, [I] (R185, R186). -/
def execLdRegs (x : RegIdx) (s : State) : Result :=
  if inMemory s.i.toNat (x.val + 1) then
    .next ((s.setV (s.loadedBlock x)).setI (s.indexAfterBlock x)).advance
  else s.fatal .dataOutOfRange

end Sys2Proof.Machine
end

