-- ==== Sys2Proof/Machine/Sprite.lean ====
section
/-! DEFINITION. The display buffer and the sprite engine (44_display.md). -/

namespace Sys2Proof.Machine

/-- `disp[px][py]`. -/
def pixel (d : Display) (px : Fin 64) (py : Fin 32) : Bool := (d.get px).get py

/-- `disp[px][py] <- not disp[px][py]`. -/
def flipPixel (d : Display) (px : Fin 64) (py : Fin 32) : Display :=
  d.set px.val ((d.get px).set py.val (!pixel d px py))

/-- The screen column of a coordinate, reduced modulo 64 (R203). -/
def wrapX (a : Nat) : Fin 64 := ⟨a % 64, Nat.mod_lt a (by decide)⟩

/-- The screen row of a coordinate, reduced modulo 32 (R203). -/
def wrapY (a : Nat) : Fin 32 := ⟨a % 32, Nat.mod_lt a (by decide)⟩

/-- The display while a sprite is drawn, and whether a set pixel has been cleared so far (R204). -/
structure Canvas where
  disp : Display
  hit : Bool
  deriving DecidableEq, Repr

/-- One set sprite bit: the collision test before the XOR, then the XOR (R201, R204). -/
def Canvas.draw (k : Canvas) (px : Fin 64) (py : Fin 32) : Canvas :=
  ⟨flipPixel k.disp px py, k.hit || pixel k.disp px py⟩

/-- One sprite row at `(x0, y)`: bit 7 − c draws column `(x0 + c) mod 64`; a 0 bit leaves its pixel (R202, R203). -/
def drawRow (x0 y : Nat) (row : Byte) (k : Canvas) : Canvas :=
  (List.range 8).foldl (fun k c => if row.getLsbD (7 - c) then k.draw (wrapX (x0 + c)) (wrapY y) else k) k

/-- The `n` rows of the sprite at address `base`, drawn from `(x0, y0)` (R201). -/
def drawSprite (m : Memory) (base x0 y0 n : Nat) (d : Display) : Canvas :=
  (List.range n).foldl (fun k r => drawRow x0 (y0 + r) (m.read (base + r)) k) ⟨d, false⟩

/-- The sprite DXYN draws, its operands read before any write (R201). -/
def State.drawn (s : State) (x y : RegIdx) (n : Height) : Canvas :=
  drawSprite s.mem s.i.toNat (s.reg x).toNat (s.reg y).toNat n.val s.disp

/-- 00E0 CLS (R200). -/
def execCls (s : State) : Result := .next (s.setDisp blankDisplay).advance

/-- DXYN DRW VX, VY, N (R201, R205). -/
def execDrw (x y : RegIdx) (n : Height) (s : State) : Result :=
  if inMemory s.i.toNat n.val then
    .next ((s.setDisp (s.drawn x y n).disp).setReg 0xF (flagByte (s.drawn x y n).hit)).advance
  else s.fatal .dataOutOfRange

end Sys2Proof.Machine
end

