-- ==== Sys2Proof/Machine/TimersKeys.lean ====
section
/-! DEFINITION. Timer access and the keyboard instructions, with the STEP in AwaitingKey (45_timers_keys.md). KEYS is the
STEP's sample, which the state holds in `keys` (40_step_cycle.md R113). -/

namespace Sys2Proof.Machine

/-- FX07 LD VX, DT (R220). -/
def execLdVxDt (x : RegIdx) (s : State) : Result := .next (s.writeResult x s.dt)

/-- FX15 LD DT, VX (R221). -/
def execLdDtVx (x : RegIdx) (s : State) : Result := .next (s.setDt (s.reg x)).advance

/-- FX18 LD ST, VX (R222). -/
def execLdStVx (x : RegIdx) (s : State) : Result := .next (s.setSt (s.reg x)).advance

/-- EX9E SKP VX (R223). -/
def execSkp (x : RegIdx) (s : State) : Result :=
  match s.keyOperand x with
  | some k => .next (s.skipIf (s.keys.get k))
  | none => s.fatal .keyIndexOutOfRange

/-- EXA1 SKNP VX (R224). -/
def execSknp (x : RegIdx) (s : State) : Result :=
  match s.keyOperand x with
  | some k => .next (s.skipIf (!s.keys.get k))
  | none => s.fatal .keyIndexOutOfRange

/-- The completion of an FX0A with destination `x`: a newly pressed key is stored and PC advances; none when no key is
newly pressed (R225, R226). -/
def State.takeKey (s : State) (x : RegIdx) : Option State :=
  match s.newKeys with
  | [] => none
  | k :: ks => some ((s.setDraws s.randIn (s.draws + 1)).writeResult x (BitVec.ofNat 8 (chooseKey s.draws k ks).val))

/-- FX0A LD VX, K: the STEP that executes the word (R225). RS stays Running when the wait ends at once. -/
def execLdVxK (x : RegIdx) (s : State) : Result :=
  match s.takeKey x with
  | some t => .next t
  | none => .next (s.setRs (.awaitingKey x))

/-- What a STEP in AwaitingKey(x) does before `KB_PREV <- KEYS`: complete the FX0A, or nothing (R226). -/
def State.awaitKey (s : State) (x : RegIdx) : State :=
  match s.takeKey x with
  | some t => t.setRs .running
  | none => s

end Sys2Proof.Machine
end

