-- ==== Sys2Proof/Machine/Cycle.lean ====
section
/-! DEFINITION. The STEP operation: fetch, decode, execute, and the keyboard sample (40_step_cycle.md R110–R120). -/

namespace Sys2Proof.Machine

/-- `KB_PREV <- KEYS` at the end of a STEP that does not fault (R118). -/
def State.sampleKeys (s : State) : State :=
  match s.rs with
  | .faulted _ => s
  | _ => s.setKbPrev s.keys

/-- What an INVALID word does: the report, and PC + 2 (R116, 60_exceptions.md R248). -/
def State.reportInvalid (s : State) (w : Word) : State := (s.setReport (some ⟨s.pc, w⟩)).advance

/-- A next state ends with the keyboard sample; a refusal stays one. -/
def endStep : Result → Result
  | .next t => .next t.sampleKeys
  | r => r

/-- Decode and execute a fetched word (R115–R117). -/
def runWord (w : Word) (s : State) : Result :=
  match decode w with
  | .error _ => .next (s.reportInvalid w)
  | .ok i => exec i s

/-- The STEP of a core in Running, from the fetch to the keyboard sample (R113–R118). -/
def runningStep (s : State) : Result :=
  match s.fetch with
  | .error c => s.fatal c
  | .ok w => endStep (runWord w s)

/-- STEP (R110, R120). The report output is that of this STEP alone (10_state.md R44). -/
def stepOp (s : State) : Result :=
  match s.rs with
  | .unloaded => .refused .stepBeforeLoad
  | .running => runningStep (s.setReport none)
  | .awaitingKey x => endStep (.next ((s.setReport none).awaitKey x))
  | .faulted _ => .next (s.setReport none)

end Sys2Proof.Machine
end

