-- ==== Sys2Proof/Machine/HostOps.lean ====
section
/-! DEFINITION. The host's operations beside STEP: TIMER_TICK, LOAD, RESET, the keyboard lines and the Random Source
(60_exceptions.md R260, R270; 70_reset_and_hazards.md R280–R284), and the outputs the host reads (10_state.md R44). -/

namespace Sys2Proof.Machine

/-- One tick of one timer, which stops at zero (60_exceptions.md R260). -/
def tickDown (b : Byte) : Byte := if b.toNat > 0 then b - 1 else b

/-- TIMER_TICK, in every run state (60_exceptions.md R260, R262). -/
def timerTick (s : State) : State := (s.setDt (tickDown s.dt)).setSt (tickDown s.st)

/-- LOAD(rom) of an Unloaded core (70_reset_and_hazards.md R282): the ROM bytes, PC, RS; a LOAD that fits reports no
error (log entry 15). -/
def loadProgram (rom : List Byte) (s : State) : State :=
  { s with mem := s.mem.writeBytes progBase rom, pc := 0x200, rs := .running, report := none, loadError := none }

/-- LOAD(rom) (70_reset_and_hazards.md R282–R284): too large a ROM changes nothing but the load-error output, and a
LOAD while RS ≠ Unloaded is refused. -/
def loadOp (rom : List Byte) (s : State) : Result :=
  match s.rs with
  | .unloaded => if romFits rom then .next (loadProgram rom s) else .next { s with loadError := some .tooLarge }
  | _ => .refused .loadWhileLoaded

/-- RESET (70_reset_and_hazards.md R280, R281), from any run state. PC is not set; the host's lines and the model's own
fields are not the core's to reset (log entry 25). -/
def resetOp (s : State) : State :=
  { State.initial s.params with pc := s.pc, keys := s.keys, randIn := s.randIn, host := s.host, draws := s.draws }

/-- One operation of the host (10_state.md R43, 60_exceptions.md R270). -/
def perform (op : HostOp) (s : State) : Result :=
  match op with
  | .step => stepOp s
  | .timerTick => .next (timerTick s)
  | .load rom => loadOp rom s
  | .reset => .next (resetOp s)
  | .writeKeys k => .next { s with keys := k }
  | .supplyRand b => .next { s with randIn := s.randIn ++ [b] }

/-- STEP and TIMER_TICK asked for in one cycle: the STEP goes first (60_exceptions.md R264). -/
def HostOp.sameCycle : List HostOp := [.step, .timerTick]

/-- The boot order: RESET, then LOAD (70_reset_and_hazards.md R285). -/
def HostOp.boot (rom : List Byte) : List HostOp := [.reset, .load rom]

/-- What the core shows the host between operations (10_state.md R44). -/
structure Outputs where
  disp : Display
  dt : Byte
  st : Byte
  rs : RunState
  report : Option InvalidReport
  loadError : Option LoadError
  deriving DecidableEq, Repr

/-- The outputs of a state; reading them changes nothing (R44). -/
def State.outputs (s : State) : Outputs := ⟨s.disp, s.dt, s.st, s.rs, s.report, s.loadError⟩

/-- Whether the next fetch passes the checks of 20_memory.md R64. -/
def fetchable (a : Word) : Bool := decide (a.toNat + 1 ≤ 0xFFF) && a.toNat % 2 == 0

/-- Where the next fetch is made to happen: PC if it can be fetched from in a loaded core, else 0x200 as LOAD sets it. -/
def State.fetchPlace (s : State) : Word := if s.rs ≠ .unloaded ∧ fetchable s.pc then s.pc else 0x200

/-- A Running core with the word stored where the next fetch reads it; it stands for the host's LOAD (log entry 2). -/
def State.placeWord (s : State) (w : Word) : State :=
  { s with host := [], rs := .running, pc := s.fetchPlace,
           mem := s.mem.writeBytes s.fetchPlace.toNat (bytesOfWord w) }

end Sys2Proof.Machine
end

