-- ==== Sys2Proof/Machine/Step.lean ====
section
/-! DEFINITION. One step of the machine: the host's next operation (10_state.md R43), a STEP where none is listed. -/

namespace Sys2Proof.Machine

def step (s : State) : Host.Outcome State Fault Refusal :=
  match s.host with
  | [] => stepOp s
  | op :: rest => perform op { s with host := rest }

/-- `s` with the instruction whose table bits are `w` stored where `step` fetches next (log entry 2). -/
def State.withFetchWord (s : State) (nbits w : Nat) : State := s.placeWord (tableWord nbits w)

end Sys2Proof.Machine
end

