-- ==== Sys2Proof/Safety.lean ====
section
/-! DEFINITION. The terms claims are stated in: what an operation leaves unchanged (frames), the invariants, the end of
a run (70_reset_and_hazards.md R292) and runs over a list of host operations. -/

namespace Sys2Proof.Safety

open Sys2Proof.Machine

/-! ## Frames: `t` is the state after, `s` the state before. -/

/-- Every general register but those `w` holds of is unchanged. -/
def RegsExcept (w : RegIdx → Prop) (s t : State) : Prop := ∀ r, ¬ w r → t.reg r = s.reg r

/-- No general register changes. -/
def RegsSame (s t : State) : Prop := ∀ r, t.reg r = s.reg r

/-- Every byte of memory reads as before. -/
def MemSame (s t : State) : Prop := ∀ a, t.mem.read a = s.mem.read a

/-- Every byte of memory but the `n` bytes from `base` on reads as before. -/
def MemOutside (base n : Nat) (s t : State) : Prop :=
  ∀ a, ¬ (base ≤ a ∧ a < base + n) → t.mem.read a = s.mem.read a

/-- I is unchanged. -/
def IndexSame (s t : State) : Prop := t.i = s.i

/-- SP and every stack slot are unchanged. -/
def StackSame (s t : State) : Prop := t.sp = s.sp ∧ t.stack = s.stack

/-- Both timers are unchanged. -/
def TimersSame (s t : State) : Prop := t.dt = s.dt ∧ t.st = s.st

/-- The display is unchanged. -/
def DispSame (s t : State) : Prop := t.disp = s.disp

/-- The run state is unchanged. -/
def RunStateSame (s t : State) : Prop := t.rs = s.rs

/-- KB_PREV and the report outputs are unchanged. -/
def OutputsSame (s t : State) : Prop := t.kbPrev = s.kbPrev ∧ t.report = s.report ∧ t.loadError = s.loadError

/-- The keyboard lines, the host's list and the parameters are unchanged. -/
def LinesSame (s t : State) : Prop := t.keys = s.keys ∧ t.host = s.host ∧ t.params = s.params

/-- The Random Source's bytes and the count of free values are unchanged. -/
def DrawsSame (s t : State) : Prop := t.randIn = s.randIn ∧ t.draws = s.draws

/-- What no instruction changes: KB_PREV, the outputs, the keyboard lines, the host's list, the parameters. -/
def HostSame (s t : State) : Prop := OutputsSame s t ∧ LinesSame s t

/-- Nothing but general registers and PC changes. -/
def OnlyRegsPc (s t : State) : Prop :=
  MemSame s t ∧ IndexSame s t ∧ StackSame s t ∧ TimersSame s t ∧ DispSame s t ∧ RunStateSame s t ∧ HostSame s t ∧
    DrawsSame s t

/-- Nothing but PC changes. -/
def OnlyPc (s t : State) : Prop := RegsSame s t ∧ OnlyRegsPc s t

/-- `t` is `s` with the fatal fault `c` taken: RS and nothing else (60_exceptions.md R240). -/
def Faults (c : Fault) (s t : State) : Prop := t = { s with rs := .faulted c }

/-! ## Invariants. -/

/-- The memory and MEM_INIT are in canonical form (20_memory.md R60). -/
def MemCanonical (s : State) : Prop := s.mem.wf = true ∧ s.params.wf = true

/-- A loaded core's PC is at most 0x10FE, return addresses on the stack are at most 0x1000, and a waiting FX0A's PC was
fetched from (10_state.md R28, 41_control_flow.md R132, 45_timers_keys.md R226). -/
def PcBounded (s : State) : Prop :=
  (s.rs ≠ .unloaded → s.pc.toNat ≤ 0x10FE) ∧
  (∀ k : Fin 16, k.val < s.sp.val → (s.stack.get k).toNat ≤ 0x1000) ∧
  (∀ x, s.rs = .awaitingKey x → s.pc.toNat ≤ 0xFFE)

/-! ## The end of a run. -/

/-- A bad end: the core is Faulted (R292). -/
def BadEnd (s : State) : Prop := ∃ c, s.rs = .faulted c

/-- The core stands at a self-jump: Running, with `1NNN` at address NNN = PC (R292). -/
def AtSelfJump (s : State) : Prop :=
  s.rs = .running ∧ ∃ nnn, s.fetch = .ok (encode (.jp nnn)) ∧ s.pc = zext16 nnn

/-- The instruction the next STEP executes, if it fetches one (40_step_cycle.md R114, R115). -/
def nextInstr (s : State) : Option Instr :=
  match s.rs with
  | .running =>
    match s.fetch with
    | .ok w => (decode w).toOption
    | .error _ => none
  | _ => none

/-! ## Runs over a list of host operations. -/

/-- Performs the operations in order; none if one is refused (R292). -/
def runOps : List HostOp → State → Option State
  | [], s => some s
  | op :: ops, s =>
    match perform op s with
    | .next t => runOps ops t
    | _ => none

/-- Along the run of `ops` from `s`, no STEP executes an instruction `bad` holds of. -/
def NeverExecutes (bad : Instr → Prop) : List HostOp → State → Prop
  | [], _ => True
  | op :: ops, s =>
    (op = .step → ∀ i, nextInstr s = some i → ¬ bad i) ∧ ∀ t, perform op s = .next t → NeverExecutes bad ops t

/-! ## Which instruction may write what. -/

/-- FX15 writes DT (10_state.md R32). -/
def writesDt : Instr → Prop
  | .ldDtVx _ => True
  | _ => False

/-- FX18 writes ST (R33). -/
def writesSt : Instr → Prop
  | .ldStVx _ => True
  | _ => False

/-- 2NNN and 00EE touch the call stack (R29). -/
def writesStack : Instr → Prop
  | .call _ | .ret => True
  | _ => False

/-- 00E0 and DXYN write the display (R39). -/
def writesDisplay : Instr → Prop
  | .cls | .drw _ _ _ => True
  | _ => False

/-- FX33 and FX55 write memory (20_memory.md R62). -/
def writesMemory : Instr → Prop
  | .ldB _ | .stRegs _ => True
  | _ => False

/-- ANNN, FX1E, FX29, FX55 and FX65 write I, the last two under INDEX_ADVANCE = ADVANCE (R24). -/
def writesIndex (p : Params) : Instr → Prop
  | .ldI _ | .addI _ | .ldF _ => True
  | .stRegs _ | .ldRegs _ => p.indexAdvance = .advance
  | _ => False

/-- The instruction names V[r] as its destination, or writes a flag and r is F (R21, R22, 42_register_alu.md R163). -/
def writesReg (r : RegIdx) : Instr → Prop
  | .ldImm x _ | .addImm x _ | .rnd x _ | .ldReg x _ | .orReg x _ | .andReg x _ | .xorReg x _ | .ldVxDt x
  | .ldVxK x => r = x
  | .addReg x _ | .subReg x _ | .shr x _ | .subn x _ | .shl x _ => r = x ∨ r = 0xF
  | .drw _ _ _ => r = 0xF
  | .ldRegs x => r ≤ x
  | _ => False

/-- EX9E, EXA1 and FX0A read the keyboard (R40). -/
def readsKeys : Instr → Prop
  | .skp _ | .sknp _ | .ldVxK _ => True
  | _ => False

/-- CXNN draws from the Random Source (R41). -/
def readsRand : Instr → Prop
  | .rnd _ _ => True
  | _ => False

/-- `f` applied to the next state of an outcome. -/
def mapNext (f : State → State) : Result → Result
  | .next t => .next (f t)
  | .fault c => .fault c
  | .refused r => .refused r

/-! ## The sprite as a set of pixels. -/

/-- A set bit of the sprite `DRW VX, VY, N` falls on pixel (px, py): row r of N, column offset c, each coordinate reduced
modulo the screen (44_display.md R202, R203). -/
def SpriteCovers (s : State) (x y : RegIdx) (n : Height) (px : Fin 64) (py : Fin 32) : Prop :=
  ∃ r < n.val, ∃ c < 8, (s.mem.read (s.i.toNat + r)).getLsbD (7 - c) = true ∧
    px.val = ((s.reg x).toNat + c) % 64 ∧ py.val = ((s.reg y).toNat + r) % 32

/-- The sprite's bytes lie in memory: N = 0, or I + N − 1 is at most 0xFFF (44_display.md R201). -/
def SpriteInMemory (s : State) (n : Height) : Prop := n.val = 0 ∨ s.i.toNat + n.val - 1 ≤ 0xFFF

/-- The number of TIMER_TICKs in a list of operations. -/
def tickCount (ops : List HostOp) : Nat := ops.count .timerTick

end Sys2Proof.Safety
end

