-- ==== Sys2Proof/Certificates/Slice0/Obligations.lean ====
section
/-! DEFINITION. The statements for the provers, from the numbered rules of spec/. A statement about an instruction says
its encoding, that it completes, its result and its frame. -/

open Sys2Proof Sys2Proof.Machine Sys2Proof.Safety

/-! ## Encoding (30_encoding.md) -/

/-- Words written out from the opcode map decode to their instructions, one for each family, that is for each value of
the high nibble (R91, R94, R95). -/
def Obligations.WrittenWordsDecode : Prop :=
  decode 0x00EE = .ok .ret ∧ decode 0x1234 = .ok (.jp 0x234) ∧ decode 0x2300 = .ok (.call 0x300) ∧
  decode 0x33AA = .ok (.seImm 3 0xAA) ∧ decode 0x43AB = .ok (.sneImm 3 0xAB) ∧ decode 0x5120 = .ok (.seReg 1 2) ∧
  decode 0x6A12 = .ok (.ldImm 0xA 0x12) ∧ decode 0x7A01 = .ok (.addImm 0xA 1) ∧ decode 0x8F14 = .ok (.addReg 0xF 1) ∧
  decode 0x9120 = .ok (.sneReg 1 2) ∧ decode 0xA30F = .ok (.ldI 0x30F) ∧ decode 0xBFFE = .ok (.jpV0 0xFFE) ∧
  decode 0xCFF0 = .ok (.rnd 0xF 0xF0) ∧ decode 0xD125 = .ok (.drw 1 2 5) ∧ decode 0xE59E = .ok (.skp 5) ∧
  decode 0xF30A = .ok (.ldVxK 3) ∧ decode 0xF255 = .ok (.stRegs 2)

/-- Decoding an instruction's word gives the instruction back, every operand at every value (R91, R95). -/
def Obligations.DecodeOfEncode : Prop := ∀ i : Instr, decode (encode i) = .ok i

/-- A word that decodes is the word its instruction encodes to: no bit of it is dropped (R94, R95). -/
def Obligations.EncodeOfDecode : Prop := ∀ (w : Word) (i : Instr), decode w = .ok i → encode i = w

/-- A word decodes to an instruction of a row exactly when `(w & mask) == match` for that row (R95), and no word matches
two rows (R96). -/
def Obligations.RowsDecideDecoding : Prop :=
  (∀ (w : Word) (j : Instr), j.row.matches w = true ↔ ∃ i, decode w = .ok i ∧ i.row = j.row) ∧
  (∀ (w : Word), ∀ r ∈ opcodeTable, ∀ r' ∈ opcodeTable, r.matches w = true → r'.matches w = true → r = r')

/-- The INVALID words are exactly those of the six families' lists, and every other word is an instruction (R97). -/
def Obligations.InvalidWordsExactly : Prop :=
  ∀ w : Word,
    let op := w.toNat / 0x1000
    let n := w.toNat % 0x10
    let nn := w.toNat % 0x100
    let invalid :=
      (op = 0 ∧ w ≠ 0x00E0 ∧ w ≠ 0x00EE) ∨ (op = 5 ∧ n ≠ 0) ∨ (op = 8 ∧ n ∈ [8, 9, 0xA, 0xB, 0xC, 0xD, 0xF]) ∨
      (op = 9 ∧ n ≠ 0) ∨ (op = 0xE ∧ nn ∉ [0x9E, 0xA1]) ∨
      (op = 0xF ∧ nn ∉ [0x07, 0x0A, 0x15, 0x18, 0x1E, 0x29, 0x33, 0x55, 0x65])
    (invalid → decode w = .error (.invalidOpcode w)) ∧ (¬ invalid → ∃ i, decode w = .ok i)

/-! ## The STEP operation (40_step_cycle.md) -/

/-- When the bytes at PC of a Running core decode to an instruction, a STEP is its exec, with the report output cleared
before it and, unless it faulted, KB_PREV sampled after it (R114, R115, R117, R118). It is the same whether the host's
list is empty or a STEP heads it (the list is the model's own, log entry 1). -/
def Obligations.StepRunsDecodedInstruction : Prop :=
  ∀ (s : State) (i : Instr), s.rs = .running → s.pc.toNat + 1 ≤ 0xFFF → s.pc.toNat % 2 = 0 →
    decode (wordOfBytes (s.mem.read s.pc.toNat) (s.mem.read (s.pc.toNat + 1))) = .ok i →
    (s.host = [] → step s = endStep (exec i (s.setReport none))) ∧
    (∀ rest, s.host = .step :: rest → step s = endStep (exec i ({ s with host := rest }.setReport none))) ∧
    (∀ t : State, (∃ c, t.rs = .faulted c) → endStep (.next t) = .next t) ∧
    (∀ t : State, (∀ c, t.rs ≠ .faulted c) → endStep (.next t) = .next { t with kbPrev := t.keys })

/-- A step performs the host's next operation, a STEP where none is listed (10_state.md R43; the list is the model's own,
log entry 1). Writing the keyboard sets KEYS to the sample written, supplying RAND puts the byte last of the injected ones,
and neither changes anything else (60_exceptions.md R270; the queue of bytes is the model's own, log entry 11). -/
def Obligations.StepPerformsHostOperation : Prop :=
  ∀ s : State, (s.host = [] → step s = perform .step s) ∧
    (∀ op rest, s.host = op :: rest → step s = perform op { s with host := rest }) ∧
    (∀ k : Keys, perform (.writeKeys k) s = .next { s with keys := k }) ∧
    (∀ b : Byte, perform (.supplyRand b) s = .next { s with randIn := s.randIn ++ [b] })

/-- Fetch: the range check first, then the alignment check, then the big-endian word (20_memory.md R64, R63). -/
def Obligations.FetchChecksInOrder : Prop :=
  ∀ s : State, s.rs = .running →
    (s.pc.toNat + 1 > 0xFFF →
      stepOp s = .next { s with rs := .faulted .fetchOutOfRange, report := none }) ∧
    (s.pc.toNat + 1 ≤ 0xFFF → s.pc.toNat % 2 = 1 →
      stepOp s = .next { s with rs := .faulted .misalignedFetch, report := none }) ∧
    (s.pc.toNat + 1 ≤ 0xFFF → s.pc.toNat % 2 = 0 →
      ∃ w : Word, s.fetch = .ok w ∧ w.extractLsb' 8 8 = s.mem.read s.pc.toNat ∧
        w.extractLsb' 0 8 = s.mem.read (s.pc.toNat + 1))

/-- An INVALID word reports its address and itself, advances PC by 2 and changes nothing else but the keyboard sample
(R116). -/
def Obligations.InvalidWordReports : Prop :=
  ∀ (s : State) (w : Word) (e : DecodeError), s.rs = .running → s.fetch = .ok w → decode w = .error e →
    stepOp s = .next { s with report := some ⟨s.pc, w⟩, pc := s.pc + 2, kbPrev := s.keys }

/-- A STEP of a Faulted core changes no state (the report output is that of this STEP, none), and only RESET leaves
Faulted (R112). -/
def Obligations.FaultedCoreIdles : Prop :=
  ∀ (s : State) (c : Fault), s.rs = .faulted c →
    stepOp s = .next { s with report := none } ∧
    ∀ (op : HostOp) (t : State), op ≠ .reset → perform op s = .next t → t.rs = .faulted c

/-- A STEP in AwaitingKey(x): with no key newly pressed only KB_PREV changes; otherwise a newly pressed key is stored in
V[x], PC advances by 2 and RS is Running (45_timers_keys.md R226). The report output is cleared, as by every STEP. -/
def Obligations.AwaitingStepCompletes : Prop :=
  ∀ (s : State) (x : RegIdx), s.rs = .awaitingKey x →
    ((∀ k, s.newlyPressed k = false) → stepOp s = .next { s with kbPrev := s.keys, report := none }) ∧
    ((∃ k, s.newlyPressed k = true) → ∃ (k : KeyIdx) (t : State), stepOp s = .next t ∧ s.newlyPressed k = true ∧
      (t.reg x).toNat = k.val ∧ t.pc = s.pc + 2 ∧ t.rs = .running ∧ t.kbPrev = s.keys ∧ t.report = none ∧
      RegsExcept (· = x) s t ∧ MemSame s t ∧ IndexSame s t ∧ StackSame s t ∧ TimersSame s t ∧ DispSame s t ∧
      t.loadError = s.loadError ∧ LinesSame s t ∧ t.randIn = s.randIn)

/-- A fatal fault discards every write of its STEP: RS becomes Faulted(cause), nothing else changes, PC keeps the
faulting address, and every later STEP changes nothing (60_exceptions.md R240). -/
def Obligations.FatalFaultIsPrecise : Prop :=
  ∀ (s t : State) (c : Fault), (∀ c', s.rs ≠ .faulted c') → stepOp s = .next t → t.rs = .faulted c →
    t = { s with rs := .faulted c, report := none } ∧ stepOp t = .next t

/-- An instruction faults with a cause exactly where the table of causes says so, and no other instruction faults
(60_exceptions.md R241, R250). -/
def Obligations.FaultCausesExactly : Prop :=
  ∀ (i : Instr) (s : State) (c : Fault), s.rs = .running →
    ((∃ t, exec i s = .next t ∧ t.rs = .faulted c) ↔
      (c = .stackOverflow ∧ s.sp.val = 16 ∧ ∃ nnn, i = .call nnn) ∨
      (c = .stackUnderflow ∧ s.sp.val = 0 ∧ i = .ret) ∨
      (c = .dataOutOfRange ∧
        ((∃ x y n, i = .drw x y n ∧ n.val > 0 ∧ s.i.toNat + n.val - 1 > 0xFFF) ∨
         (∃ x, i = .ldB x ∧ s.i.toNat + 2 > 0xFFF) ∨
         (∃ x, (i = .stRegs x ∨ i = .ldRegs x) ∧ s.i.toNat + x.val > 0xFFF))) ∨
      (c = .keyIndexOutOfRange ∧ ∃ x, (i = .skp x ∨ i = .sknp x) ∧ (s.reg x).toNat > 0xF))

/-- No step ends in the host interface's fault: a fatal fault is a next state (the model's choice, log entry 5). -/
def Obligations.NoStepStopsInHostFault : Prop := ∀ (s : State) (f : Fault), step s ≠ .fault f

/-- The three refusals, each exactly where the spec refuses: a STEP while Unloaded (R111), FX1E past 0xFFFF
(43_index_memory.md R181), a LOAD while not Unloaded (70_reset_and_hazards.md R284). -/
def Obligations.RefusalsExactly : Prop :=
  ∀ (op : HostOp) (s : State) (r : Refusal), perform op s = .refused r ↔
    (op = .step ∧ r = .stepBeforeLoad ∧ s.rs = .unloaded) ∨
    (op = .step ∧ r = .indexOverflow ∧
      ∃ x, nextInstr s = some (.addI x) ∧ s.i.toNat + (s.reg x).toNat > 0xFFFF) ∨
    (r = .loadWhileLoaded ∧ s.rs ≠ .unloaded ∧ ∃ rom, op = .load rom)

/-- KB_PREV is the sample of every STEP in Running or AwaitingKey that does not fault, and no other operation but RESET
writes it (R118). -/
def Obligations.KeyboardSampleWritten : Prop :=
  (∀ s t : State, stepOp s = .next t → (s.rs = .running ∨ ∃ x, s.rs = .awaitingKey x) →
    (∀ c, t.rs ≠ .faulted c) → t.kbPrev = s.keys) ∧
  (∀ (op : HostOp) (s t : State), op ≠ .step → op ≠ .reset → perform op s = .next t → t.kbPrev = s.kbPrev)

/-! ## Control flow (41_control_flow.md) -/

/-- 00EE RET (R130). -/
def Obligations.ReturnPopsStack : Prop :=
  encode .ret = 0x00EE ∧ ∀ s : State,
    (s.sp.val = 0 → ∃ t, exec .ret s = .next t ∧ Faults .stackUnderflow s t) ∧
    (∀ h : 0 < s.sp.val, ∃ t, exec .ret s = .next t ∧ t.sp.val = s.sp.val - 1 ∧
      t.pc = s.stack.get ⟨s.sp.val - 1, by omega⟩ ∧ t.stack = s.stack ∧
      RegsSame s t ∧ MemSame s t ∧ IndexSame s t ∧ TimersSame s t ∧ DispSame s t ∧ RunStateSame s t ∧ HostSame s t ∧
      DrawsSame s t)

/-- 1NNN JP NNN, with the faults at the next fetch and the jump to itself (R131). -/
def Obligations.JumpSetsPc : Prop :=
  ∀ (nnn : Addr12) (s : State), encode (.jp nnn) = 0x1000 ||| zext16 nnn ∧
    ∃ t, exec (.jp nnn) s = .next t ∧ t.pc = zext16 nnn ∧ OnlyPc s t ∧
      (nnn = 0xFFF → t.fetch = .error .fetchOutOfRange) ∧
      (nnn.toNat % 2 = 1 → nnn ≠ 0xFFF → t.fetch = .error .misalignedFetch) ∧
      (s.pc = zext16 nnn → t = s)

/-- 2NNN CALL NNN (R132). -/
def Obligations.CallPushesReturnAddress : Prop :=
  ∀ (nnn : Addr12) (s : State), encode (.call nnn) = 0x2000 ||| zext16 nnn ∧
    (s.sp.val = 16 → ∃ t, exec (.call nnn) s = .next t ∧ Faults .stackOverflow s t) ∧
    (∀ h : s.sp.val < 16, ∃ t, exec (.call nnn) s = .next t ∧ t.stack.get ⟨s.sp.val, h⟩ = s.pc + 2 ∧
      t.sp.val = s.sp.val + 1 ∧ t.pc = zext16 nnn ∧
      (∀ k : Fin 16, k.val ≠ s.sp.val → t.stack.get k = s.stack.get k) ∧
      RegsSame s t ∧ MemSame s t ∧ IndexSame s t ∧ TimersSame s t ∧ DispSame s t ∧ RunStateSame s t ∧ HostSame s t ∧
      DrawsSame s t)

/-- 3XNN SE VX, NN and 4XNN SNE VX, NN (R133, R134). -/
def Obligations.SkipOnImmediate : Prop :=
  ∀ (x : RegIdx) (nn : Byte) (s : State),
    encode (.seImm x nn) = 0x3000 ||| putX x ||| zext16 nn ∧
    (∃ t, exec (.seImm x nn) s = .next t ∧ t.pc = (if s.reg x = nn then s.pc + 4 else s.pc + 2) ∧ OnlyPc s t) ∧
    encode (.sneImm x nn) = 0x4000 ||| putX x ||| zext16 nn ∧
    (∃ t, exec (.sneImm x nn) s = .next t ∧ t.pc = (if s.reg x ≠ nn then s.pc + 4 else s.pc + 2) ∧ OnlyPc s t)

/-- 5XY0 SE VX, VY and 9XY0 SNE VX, VY; with a low nibble that is not 0 the word is INVALID (R135, R136). -/
def Obligations.SkipOnRegisters : Prop :=
  ∀ (x y : RegIdx) (s : State),
    encode (.seReg x y) = 0x5000 ||| putX x ||| putY y ∧
    (∃ t, exec (.seReg x y) s = .next t ∧ t.pc = (if s.reg x = s.reg y then s.pc + 4 else s.pc + 2) ∧ OnlyPc s t) ∧
    encode (.sneReg x y) = 0x9000 ||| putX x ||| putY y ∧
    (∃ t, exec (.sneReg x y) s = .next t ∧ t.pc = (if s.reg x ≠ s.reg y then s.pc + 4 else s.pc + 2) ∧ OnlyPc s t) ∧
    (∀ n : Height, n ≠ 0 → ∀ w ∈ [0x5000 ||| putX x ||| putY y ||| putN n, 0x9000 ||| putX x ||| putY y ||| putN n],
      decode w = .error (.invalidOpcode w))

/-- BNNN JP V0, NNN: the sum is exact; a target that cannot be fetched faults at the next fetch (R137). -/
def Obligations.OffsetJumpIsExact : Prop :=
  ∀ (nnn : Addr12) (s : State), encode (.jpV0 nnn) = 0xB000 ||| zext16 nnn ∧
    ∃ t, exec (.jpV0 nnn) s = .next t ∧ t.pc.toNat = nnn.toNat + (s.reg 0).toNat ∧ t.pc.toNat ≤ 0x10FE ∧ OnlyPc s t ∧
      (t.pc.toNat > 0xFFE → t.fetch = .error .fetchOutOfRange) ∧
      (t.pc.toNat ≤ 0xFFE → t.pc.toNat % 2 = 1 → t.fetch = .error .misalignedFetch)

/-! ## Register loads and arithmetic (42_register_alu.md) -/

/-- 6XNN LD VX, NN (R150). -/
def Obligations.LoadImmediate : Prop :=
  ∀ (x : RegIdx) (nn : Byte) (s : State), encode (.ldImm x nn) = 0x6000 ||| putX x ||| zext16 nn ∧
    ∃ t, exec (.ldImm x nn) s = .next t ∧ t.reg x = nn ∧ t.pc = s.pc + 2 ∧ RegsExcept (· = x) s t ∧ OnlyRegsPc s t

/-- 7XNN ADD VX, NN: modulo 256, no flag (R151). -/
def Obligations.AddImmediateWraps : Prop :=
  ∀ (x : RegIdx) (nn : Byte) (s : State), encode (.addImm x nn) = 0x7000 ||| putX x ||| zext16 nn ∧
    ∃ t, exec (.addImm x nn) s = .next t ∧ (t.reg x).toNat = ((s.reg x).toNat + nn.toNat) % 256 ∧
      t.pc = s.pc + 2 ∧ RegsExcept (· = x) s t ∧ OnlyRegsPc s t

/-- 8XY0 LD VX, VY (R152). -/
def Obligations.CopyRegister : Prop :=
  ∀ (x y : RegIdx) (s : State), encode (.ldReg x y) = 0x8000 ||| putX x ||| putY y ∧
    ∃ t, exec (.ldReg x y) s = .next t ∧ t.reg x = s.reg y ∧ t.pc = s.pc + 2 ∧ RegsExcept (· = x) s t ∧ OnlyRegsPc s t

/-- 8XY1 OR, 8XY2 AND and 8XY3 XOR, bit by bit, VF unchanged unless X = F (R153, R154, R155). -/
def Obligations.LogicIsBitwise : Prop :=
  ∀ (x y : RegIdx) (s : State),
    (encode (.orReg x y) = 0x8001 ||| putX x ||| putY y ∧
      ∃ t, exec (.orReg x y) s = .next t ∧
        (∀ b < 8, (t.reg x).getLsbD b = ((s.reg x).getLsbD b || (s.reg y).getLsbD b)) ∧
        t.pc = s.pc + 2 ∧ RegsExcept (· = x) s t ∧ OnlyRegsPc s t) ∧
    (encode (.andReg x y) = 0x8002 ||| putX x ||| putY y ∧
      ∃ t, exec (.andReg x y) s = .next t ∧
        (∀ b < 8, (t.reg x).getLsbD b = ((s.reg x).getLsbD b && (s.reg y).getLsbD b)) ∧
        t.pc = s.pc + 2 ∧ RegsExcept (· = x) s t ∧ OnlyRegsPc s t) ∧
    (encode (.xorReg x y) = 0x8003 ||| putX x ||| putY y ∧
      ∃ t, exec (.xorReg x y) s = .next t ∧
        (∀ b < 8, (t.reg x).getLsbD b = ((s.reg x).getLsbD b ^^ (s.reg y).getLsbD b)) ∧
        t.pc = s.pc + 2 ∧ RegsExcept (· = x) s t ∧ OnlyRegsPc s t)

/-- 8XY4 ADD VX, VY: VF is the carry, whatever X is (R156). -/
def Obligations.AddSetsCarry : Prop :=
  ∀ (x y : RegIdx) (s : State), encode (.addReg x y) = 0x8004 ||| putX x ||| putY y ∧
    ∃ t, exec (.addReg x y) s = .next t ∧
      t.reg 0xF = (if (s.reg x).toNat + (s.reg y).toNat > 0xFF then 1 else 0) ∧
      (x ≠ 0xF → (t.reg x).toNat = ((s.reg x).toNat + (s.reg y).toNat) % 256) ∧
      t.pc = s.pc + 2 ∧ RegsExcept (fun r => r = x ∨ r = 0xF) s t ∧ OnlyRegsPc s t

/-- 8XY5 SUB VX, VY: VF is VX > VY, strictly (R157). -/
def Obligations.SubtractSetsNotBorrow : Prop :=
  ∀ (x y : RegIdx) (s : State), encode (.subReg x y) = 0x8005 ||| putX x ||| putY y ∧
    ∃ t, exec (.subReg x y) s = .next t ∧
      t.reg 0xF = (if (s.reg x).toNat > (s.reg y).toNat then 1 else 0) ∧
      (x ≠ 0xF → ((t.reg x).toNat : Int) = (((s.reg x).toNat : Int) - (s.reg y).toNat) % 256) ∧
      t.pc = s.pc + 2 ∧ RegsExcept (fun r => r = x ∨ r = 0xF) s t ∧ OnlyRegsPc s t

/-- 8XY6 SHR VX, VY: the source by SHIFT_SRC, VF is its bit 0 (R158). -/
def Obligations.ShiftRightSetsLowBit : Prop :=
  ∀ (x y : RegIdx) (s : State), encode (.shr x y) = 0x8006 ||| putX x ||| putY y ∧
    ∃ t, exec (.shr x y) s = .next t ∧
      (let src := (if s.params.shiftSrc = .vx then s.reg x else s.reg y).toNat
       (t.reg 0xF).toNat = src % 2 ∧ (x ≠ 0xF → (t.reg x).toNat = src / 2)) ∧
      t.pc = s.pc + 2 ∧ RegsExcept (fun r => r = x ∨ r = 0xF) s t ∧ OnlyRegsPc s t

/-- 8XY7 SUBN VX, VY: VF is VY > VX, strictly (R159). -/
def Obligations.ReversedSubtractSetsNotBorrow : Prop :=
  ∀ (x y : RegIdx) (s : State), encode (.subn x y) = 0x8007 ||| putX x ||| putY y ∧
    ∃ t, exec (.subn x y) s = .next t ∧
      t.reg 0xF = (if (s.reg y).toNat > (s.reg x).toNat then 1 else 0) ∧
      (x ≠ 0xF → ((t.reg x).toNat : Int) = (((s.reg y).toNat : Int) - (s.reg x).toNat) % 256) ∧
      t.pc = s.pc + 2 ∧ RegsExcept (fun r => r = x ∨ r = 0xF) s t ∧ OnlyRegsPc s t

/-- 8XYE SHL VX, VY: the source by SHIFT_SRC, VF is its bit 7 (R160). -/
def Obligations.ShiftLeftSetsHighBit : Prop :=
  ∀ (x y : RegIdx) (s : State), encode (.shl x y) = 0x800E ||| putX x ||| putY y ∧
    ∃ t, exec (.shl x y) s = .next t ∧
      (let src := (if s.params.shiftSrc = .vx then s.reg x else s.reg y).toNat
       (t.reg 0xF).toNat = src / 128 ∧ (x ≠ 0xF → (t.reg x).toNat = src * 2 % 256)) ∧
      t.pc = s.pc + 2 ∧ RegsExcept (fun r => r = x ∨ r = 0xF) s t ∧ OnlyRegsPc s t

/-- CXNN RND VX, NN: exactly one byte of the Random Source, masked, NN = 0 included (R161). That the byte is the oldest
injected one, or else a free value, and how many are left is the model's way to hold the draws (log entry 11). -/
def Obligations.RandomByteIsMasked : Prop :=
  ∀ (x : RegIdx) (nn : Byte) (s : State), encode (.rnd x nn) = 0xC000 ||| putX x ||| zext16 nn ∧
    ∃ t, exec (.rnd x nn) s = .next t ∧
      (∀ b bs, s.randIn = b :: bs → t.reg x = b &&& nn ∧ t.randIn = bs ∧ t.draws = s.draws) ∧
      (s.randIn = [] → t.reg x = Config.randByte s.draws &&& nn ∧ t.randIn = [] ∧ t.draws = s.draws + 1) ∧
      t.pc = s.pc + 2 ∧ RegsExcept (· = x) s t ∧ MemSame s t ∧ IndexSame s t ∧ StackSame s t ∧ TimersSame s t ∧
      DispSame s t ∧ RunStateSame s t ∧ HostSame s t

/-! ## Index register and memory transfers (43_index_memory.md) -/

/-- ANNN LD I, NNN (R180). -/
def Obligations.LoadIndex : Prop :=
  ∀ (nnn : Addr12) (s : State), encode (.ldI nnn) = 0xA000 ||| zext16 nnn ∧
    ∃ t, exec (.ldI nnn) s = .next t ∧ t.i.toNat = nnn.toNat ∧ t.pc = s.pc + 2 ∧ RegsSame s t ∧ MemSame s t ∧
      StackSame s t ∧ TimersSame s t ∧ DispSame s t ∧ RunStateSame s t ∧ HostSame s t ∧ DrawsSame s t

/-- FX1E ADD I, VX: exact, VF unchanged; past 0xFFFF the model refuses (R181). -/
def Obligations.AddToIndex : Prop :=
  ∀ (x : RegIdx) (s : State), encode (.addI x) = 0xF01E ||| putX x ∧
    (s.i.toNat + (s.reg x).toNat ≤ 0xFFFF →
      ∃ t, exec (.addI x) s = .next t ∧ t.i.toNat = s.i.toNat + (s.reg x).toNat ∧ t.pc = s.pc + 2 ∧ RegsSame s t ∧
        MemSame s t ∧ StackSame s t ∧ TimersSame s t ∧ DispSame s t ∧ RunStateSame s t ∧ HostSame s t ∧
        DrawsSame s t) ∧
    (s.i.toNat + (s.reg x).toNat > 0xFFFF → exec (.addI x) s = .refused .indexOverflow)

/-- FX29 LD F, VX: 0x050 + 5·V[X], V[X] not masked to a nibble; where V[X] is a hex digit and the font is in place, the five
bytes there are its glyph (R182). -/
def Obligations.PointAtGlyph : Prop :=
  ∀ (x : RegIdx) (s : State), encode (.ldF x) = 0xF029 ||| putX x ∧
    ∃ t, exec (.ldF x) s = .next t ∧ t.i.toNat = 0x050 + 5 * (s.reg x).toNat ∧ t.pc = s.pc + 2 ∧ RegsSame s t ∧
      MemSame s t ∧ StackSame s t ∧ TimersSame s t ∧ DispSame s t ∧ RunStateSame s t ∧ HostSame s t ∧ DrawsSame s t ∧
      ((∀ j : Fin 80, s.mem.read (0x050 + j.val) = s.params.fontData.get j) →
        ∀ (h : (s.reg x).toNat ≤ 0xF) (r : Fin 5),
          t.mem.read (t.i.toNat + r.val) = s.params.fontData.get ⟨5 * (s.reg x).toNat + r.val, by omega⟩)

/-- FX33 LD B, VX: the decimal digits at I, I + 1, I + 2, or DATA_OUT_OF_RANGE with nothing written (R183). The premise
that the memory is canonical is the invariant MemoryStaysCanonical. -/
def Obligations.StoreDecimalDigits : Prop :=
  ∀ (x : RegIdx) (s : State), encode (.ldB x) = 0xF033 ||| putX x ∧
    (s.i.toNat + 2 ≤ 0xFFF → s.mem.wf = true →
      ∃ t, exec (.ldB x) s = .next t ∧ (t.mem.read s.i.toNat).toNat = (s.reg x).toNat / 100 ∧
        (t.mem.read (s.i.toNat + 1)).toNat = (s.reg x).toNat / 10 % 10 ∧
        (t.mem.read (s.i.toNat + 2)).toNat = (s.reg x).toNat % 10 ∧
        MemOutside s.i.toNat 3 s t ∧ t.pc = s.pc + 2 ∧ RegsSame s t ∧ IndexSame s t ∧ StackSame s t ∧
        TimersSame s t ∧ DispSame s t ∧ RunStateSame s t ∧ HostSame s t ∧ DrawsSame s t) ∧
    (s.i.toNat + 2 > 0xFFF → ∃ t, exec (.ldB x) s = .next t ∧ Faults .dataOutOfRange s t)

/-- FX55 LD [I], VX: V0 to V[X] at I on, I by INDEX_ADVANCE, or DATA_OUT_OF_RANGE with nothing written (R184, R186). The
premise that the memory is canonical is the invariant MemoryStaysCanonical. -/
def Obligations.StoreRegisters : Prop :=
  ∀ (x : RegIdx) (s : State), encode (.stRegs x) = 0xF055 ||| putX x ∧
    (s.i.toNat + x.val ≤ 0xFFF → s.mem.wf = true →
      ∃ t, exec (.stRegs x) s = .next t ∧
        (∀ k : RegIdx, k ≤ x → t.mem.read (s.i.toNat + k.val) = s.reg k) ∧
        MemOutside s.i.toNat (x.val + 1) s t ∧
        t.i.toNat = (if s.params.indexAdvance = .advance then s.i.toNat + x.val + 1 else s.i.toNat) ∧
        t.pc = s.pc + 2 ∧ RegsSame s t ∧ StackSame s t ∧ TimersSame s t ∧ DispSame s t ∧ RunStateSame s t ∧
        HostSame s t ∧ DrawsSame s t) ∧
    (s.i.toNat + x.val > 0xFFF → ∃ t, exec (.stRegs x) s = .next t ∧ Faults .dataOutOfRange s t)

/-- The bytes FX55 stores are what a later fetch at an even address among them reads, with no hazard (20_memory.md R75,
70_reset_and_hazards.md R289). The premise that the memory is canonical is the invariant MemoryStaysCanonical. -/
def Obligations.StoredBytesAreFetched : Prop :=
  ∀ (x k : RegIdx) (s t : State) (p : Word) (h : k.val < x.val), s.mem.wf = true → s.i.toNat + x.val ≤ 0xFFF →
    exec (.stRegs x) s = .next t → p.toNat = s.i.toNat + k.val → p.toNat % 2 = 0 →
    (t.setPc p).fetch = .ok (wordOfBytes (s.reg k) (s.reg ⟨k.val + 1, by omega⟩))

/-- FX65 LD VX, [I]: V0 to V[X] from I on, I by INDEX_ADVANCE, or DATA_OUT_OF_RANGE with no register written (R185,
R186). -/
def Obligations.LoadRegisters : Prop :=
  ∀ (x : RegIdx) (s : State), encode (.ldRegs x) = 0xF065 ||| putX x ∧
    (s.i.toNat + x.val ≤ 0xFFF →
      ∃ t, exec (.ldRegs x) s = .next t ∧
        (∀ k : RegIdx, k ≤ x → t.reg k = s.mem.read (s.i.toNat + k.val)) ∧ RegsExcept (· ≤ x) s t ∧
        t.i.toNat = (if s.params.indexAdvance = .advance then s.i.toNat + x.val + 1 else s.i.toNat) ∧
        t.pc = s.pc + 2 ∧ MemSame s t ∧ StackSame s t ∧ TimersSame s t ∧ DispSame s t ∧ RunStateSame s t ∧
        HostSame s t ∧ DrawsSame s t) ∧
    (s.i.toNat + x.val > 0xFFF → ∃ t, exec (.ldRegs x) s = .next t ∧ Faults .dataOutOfRange s t)

/-! ## Display (44_display.md) -/

/-- 00E0 CLS (R200). -/
def Obligations.ClearDisplay : Prop :=
  encode .cls = 0x00E0 ∧ ∀ s : State, ∃ t, exec .cls s = .next t ∧
    (∀ (px : Fin 64) (py : Fin 32), pixel t.disp px py = false) ∧ t.pc = s.pc + 2 ∧ RegsSame s t ∧ MemSame s t ∧
    IndexSame s t ∧ StackSame s t ∧ TimersSame s t ∧ RunStateSame s t ∧ HostSame s t ∧ DrawsSame s t

/-- DXYN DRW VX, VY, N: each pixel a set sprite bit falls on, wrapped per pixel, is inverted and no other; VF is 1 exactly
when one of them was set; a sprite that leaves memory is DATA_OUT_OF_RANGE and nothing changes (R201). -/
def Obligations.DrawXorsSprite : Prop :=
  ∀ (x y : RegIdx) (n : Height) (s : State), encode (.drw x y n) = 0xD000 ||| putX x ||| putY y ||| putN n ∧
    (SpriteInMemory s n →
      ∃ t, exec (.drw x y n) s = .next t ∧
        (∀ px py, SpriteCovers s x y n px py → pixel t.disp px py = !pixel s.disp px py) ∧
        (∀ px py, ¬ SpriteCovers s x y n px py → pixel t.disp px py = pixel s.disp px py) ∧
        ((∃ px py, SpriteCovers s x y n px py ∧ pixel s.disp px py = true) → t.reg 0xF = 1) ∧
        ((¬ ∃ px py, SpriteCovers s x y n px py ∧ pixel s.disp px py = true) → t.reg 0xF = 0) ∧
        t.pc = s.pc + 2 ∧ RegsExcept (· = 0xF) s t ∧ MemSame s t ∧ IndexSame s t ∧ StackSame s t ∧ TimersSame s t ∧
        RunStateSame s t ∧ HostSame s t ∧ DrawsSame s t) ∧
    (¬ SpriteInMemory s n → ∃ t, exec (.drw x y n) s = .next t ∧ Faults .dataOutOfRange s t)

/-- The same sprite drawn twice at the same place restores the display, and the second draw sets VF exactly when a set bit
fell on a pixel that was unset before the first (R205 as R201's pseudocode gives it, log entry 18). -/
def Obligations.DrawTwiceRestores : Prop :=
  ∀ (x y : RegIdx) (n : Height) (s : State), x ≠ 0xF → y ≠ 0xF → SpriteInMemory s n →
    ∃ t u, exec (.drw x y n) s = .next t ∧ exec (.drw x y n) t = .next u ∧ u.disp = s.disp ∧
      ((∃ px py, SpriteCovers s x y n px py ∧ pixel s.disp px py = false) → u.reg 0xF = 1) ∧
      ((¬ ∃ px py, SpriteCovers s x y n px py ∧ pixel s.disp px py = false) → u.reg 0xF = 0)

/-! ## Timers and keys (45_timers_keys.md) -/

/-- FX07 LD VX, DT (R220), FX15 LD DT, VX (R221) and FX18 LD ST, VX (R222). -/
def Obligations.TimerTransfers : Prop :=
  ∀ (x : RegIdx) (s : State),
    (encode (.ldVxDt x) = 0xF007 ||| putX x ∧
      ∃ t, exec (.ldVxDt x) s = .next t ∧ t.reg x = s.dt ∧ t.pc = s.pc + 2 ∧ RegsExcept (· = x) s t ∧
        OnlyRegsPc s t) ∧
    (encode (.ldDtVx x) = 0xF015 ||| putX x ∧
      ∃ t, exec (.ldDtVx x) s = .next t ∧ t.dt = s.reg x ∧ t.st = s.st ∧ t.pc = s.pc + 2 ∧ RegsSame s t ∧
        MemSame s t ∧ IndexSame s t ∧ StackSame s t ∧ DispSame s t ∧ RunStateSame s t ∧ HostSame s t ∧
        DrawsSame s t) ∧
    (encode (.ldStVx x) = 0xF018 ||| putX x ∧
      ∃ t, exec (.ldStVx x) s = .next t ∧ t.st = s.reg x ∧ t.dt = s.dt ∧ t.pc = s.pc + 2 ∧ RegsSame s t ∧
        MemSame s t ∧ IndexSame s t ∧ StackSame s t ∧ DispSame s t ∧ RunStateSame s t ∧ HostSame s t ∧
        DrawsSame s t)

/-- EX9E SKP VX and EXA1 SKNP VX: the level of the key V[X] names, or KEY_INDEX_OUT_OF_RANGE (R223, R224). -/
def Obligations.SkipOnKey : Prop :=
  ∀ (x : RegIdx) (s : State),
    encode (.skp x) = 0xE09E ||| putX x ∧ encode (.sknp x) = 0xE0A1 ||| putX x ∧
    (∀ k : KeyIdx, (s.reg x).toNat = k.val →
      (∃ t, exec (.skp x) s = .next t ∧ t.pc = (if s.keys.get k = true then s.pc + 4 else s.pc + 2) ∧ OnlyPc s t) ∧
      (∃ t, exec (.sknp x) s = .next t ∧ t.pc = (if s.keys.get k = false then s.pc + 4 else s.pc + 2) ∧
        OnlyPc s t)) ∧
    ((s.reg x).toNat > 0xF →
      (∃ t, exec (.skp x) s = .next t ∧ Faults .keyIndexOutOfRange s t) ∧
      (∃ t, exec (.sknp x) s = .next t ∧ Faults .keyIndexOutOfRange s t))

/-- FX0A LD VX, K: a newly pressed key (down in KEYS, up in KB_PREV) is stored and PC advances; with none, RS becomes
AwaitingKey(X) and PC stays; the STEP then samples the keyboard (R225). -/
def Obligations.WaitForKey : Prop :=
  ∀ (x : RegIdx) (s : State), encode (.ldVxK x) = 0xF00A ||| putX x ∧
    ((∃ k : KeyIdx, s.keys.get k = true ∧ s.kbPrev.get k = false) →
      ∃ (k : KeyIdx) (t : State), exec (.ldVxK x) s = .next t ∧ s.keys.get k = true ∧ s.kbPrev.get k = false ∧
        (t.reg x).toNat = k.val ∧ t.pc = s.pc + 2 ∧ RegsExcept (· = x) s t ∧ MemSame s t ∧ IndexSame s t ∧
        StackSame s t ∧ TimersSame s t ∧ DispSame s t ∧ RunStateSame s t ∧ HostSame s t ∧ t.randIn = s.randIn) ∧
    ((∀ k : KeyIdx, s.keys.get k = true → s.kbPrev.get k = true) →
      exec (.ldVxK x) s = .next { s with rs := .awaitingKey x }) ∧
    (s.rs = .running → ∀ t, exec (.ldVxK x) s = .next t → endStep (.next t) = .next { t with kbPrev := s.keys })

/-! ## Whole-machine rules -/

/-- A general register changes only where the instruction names it as its destination or writes a flag into it
(10_state.md R21, R22; 42_register_alu.md R163). -/
def Obligations.OnlyNamedRegistersChange : Prop :=
  ∀ (i : Instr) (s t : State) (r : RegIdx), exec i s = .next t → t.reg r ≠ s.reg r → writesReg r i

/-- Only the instructions the spec names write I (R24), the call stack (R29), DT (R32), ST (R33), the display (R39) and
memory (20_memory.md R62). -/
def Obligations.OnlyNamedWritersWrite : Prop :=
  ∀ (i : Instr) (s t : State), exec i s = .next t →
    (t.i ≠ s.i → writesIndex s.params i) ∧ (t.sp ≠ s.sp ∨ t.stack ≠ s.stack → writesStack i) ∧
    (t.dt ≠ s.dt → writesDt i) ∧ (t.st ≠ s.st → writesSt i) ∧ (t.disp ≠ s.disp → writesDisplay i) ∧
    ((∃ a, t.mem.read a ≠ s.mem.read a) → writesMemory i)

/-- Only EX9E, EXA1 and FX0A read the keyboard (R40). -/
def Obligations.OnlyKeyInstructionsReadKeys : Prop :=
  ∀ (i : Instr) (s : State) (k : Keys), ¬ readsKeys i →
    exec i { s with keys := k } = mapNext (fun t => { t with keys := k }) (exec i s)

/-- Only CXNN draws from the Random Source (R41). -/
def Obligations.OnlyRndReadsRandomSource : Prop :=
  ∀ (i : Instr) (s : State) (r : List Byte), ¬ readsRand i →
    exec i { s with randIn := r } = mapNext (fun t => { t with randIn := r }) (exec i s)

/-- No instruction reads ST (R33). -/
def Obligations.SoundTimerIsNeverRead : Prop :=
  ∀ (i : Instr) (s : State) (b : Byte),
    (¬ writesSt i → exec i { s with st := b } = mapNext (fun t => { t with st := b }) (exec i s)) ∧
    (writesSt i → exec i { s with st := b } = exec i s)

/-- No instruction reads a stack slot at index SP or above: what those slots hold changes nothing but such slots (R30). -/
def Obligations.StaleSlotsAreNeverRead : Prop :=
  ∀ (i : Instr) (s : State) (w : Vector Word 16), (∀ k : Fin 16, k.val < s.sp.val → w.get k = s.stack.get k) →
    (∀ t, exec i s = .next t → ∃ w' : Vector Word 16, exec i { s with stack := w } = .next { t with stack := w' } ∧
      ∀ k : Fin 16, k.val < t.sp.val → w'.get k = t.stack.get k) ∧
    (∀ r, exec i s = .refused r → exec i { s with stack := w } = .refused r)

/-! ## Invariants, reset, load, timers, the end of a run -/

/-- Every step keeps the memory in canonical form: listed addresses rising and below 4096, nothing listed that an unlisted
address reads as (20_memory.md R60; the form is the model's own). -/
def Obligations.MemoryStaysCanonical : Prop :=
  ∀ s t : State, MemCanonical s → step s = .next t → MemCanonical t

/-- PC never wraps: every step of a loaded core leaves PC at most 0x10FE, return addresses at most 0x1000 (10_state.md
R28). -/
def Obligations.PcStaysBounded : Prop := ∀ s t : State, PcBounded s → step s = .next t → PcBounded t

/-- The state after power-on meets both invariants. -/
def Obligations.ResetMeetsInvariants : Prop := MemCanonical State.reset ∧ PcBounded State.reset

/-- The state after power-on: RS Unloaded, SP 0, no report, KB_PREV all false, the font in memory (R45). That the
registers, I, the timers, the stack slots, the display, PC and the other bytes are zero is the model's choice (log entries
6, 7 and 8). -/
def Obligations.PowerOnState : Prop :=
  State.reset.rs = .unloaded ∧ State.reset.sp.val = 0 ∧ State.reset.report = none ∧
  (∀ k : KeyIdx, State.reset.kbPrev.get k = false) ∧ State.reset.mem = [] ∧
  (∀ j : Fin 80, State.reset.mem.read (0x050 + j.val) = State.reset.params.fontData.get j) ∧
  (∀ a, ¬ (0x050 ≤ a ∧ a < 0x0A0) → State.reset.mem.read a = 0) ∧
  (∀ r : RegIdx, State.reset.reg r = 0) ∧ State.reset.i = 0 ∧ State.reset.pc = 0 ∧ State.reset.dt = 0 ∧
  State.reset.st = 0 ∧ (∀ k : Fin 16, State.reset.stack.get k = 0) ∧
  (∀ px py, pixel State.reset.disp px py = false)

/-- RESET, from any run state: every item of R280 at its parameter, the font copied into memory, RS Unloaded, no report
(10_state.md R45), every parameter of 00_scope.md R8 kept. That PC keeps its value is the model's choice (log entry 7: R280
does not set PC and R45 leaves it unspecified). The premise that MEM_INIT is a memory is part of the invariant
MemoryStaysCanonical. -/
def Obligations.ResetRestoresInitialState : Prop :=
  ∀ s : State, s.params.wf = true → ∃ t, perform .reset s = .next t ∧
    t.v = s.params.resetV ∧ t.i = s.params.resetI ∧ t.sp.val = 0 ∧ t.stack = s.params.resetStack ∧
    t.dt = s.params.resetDT ∧ t.st = s.params.resetST ∧
    (∀ a, ¬ (0x050 ≤ a ∧ a ≤ 0x09F) → t.mem.read a = Memory.read s.params.memInit a) ∧
    (∀ j : Fin 80, t.mem.read (0x050 + j.val) = s.params.fontData.get j) ∧
    t.disp = s.params.resetDisplay ∧ (∀ k : KeyIdx, t.kbPrev.get k = false) ∧ t.rs = .unloaded ∧ t.pc = s.pc ∧
    t.report = none ∧ t.params = s.params

/-- LOAD(rom): the bytes at 0x200 on, PC = 0x200, RS = Running and nothing else (R282); a ROM over 3584 bytes emits
LoadError(TOO_LARGE) and changes nothing (R283); refused while RS ≠ Unloaded (R284). After
a LOAD that succeeds there is no InvalidOpcode report (R45). -/
def Obligations.LoadCopiesRom : Prop :=
  ∀ (rom : List Byte) (s : State),
    (s.rs = .unloaded → rom.length ≤ 3584 → s.mem.wf = true → ∃ t, perform (.load rom) s = .next t ∧
      (∀ (j : Nat) (h : j < rom.length), t.mem.read (0x200 + j) = rom[j]) ∧ MemOutside 0x200 rom.length s t ∧
      t = { s with mem := t.mem, pc := 0x200, rs := .running, report := none, loadError := t.loadError }) ∧
    (s.rs = .unloaded → rom.length > 3584 →
      perform (.load rom) s = .next { s with loadError := some .tooLarge }) ∧
    (s.rs ≠ .unloaded → perform (.load rom) s = .refused .loadWhileLoaded)

/-- TIMER_TICK, in every run state: each timer down by one, stopping at zero, and nothing else (60_exceptions.md R260,
R262). -/
def Obligations.TimerTickDecrements : Prop :=
  ∀ s : State, ∃ t, perform .timerTick s = .next t ∧ t.dt.toNat = s.dt.toNat - 1 ∧ t.st.toNat = s.st.toNat - 1 ∧
    t = { s with dt := t.dt, st := t.st }

/-- N TIMER_TICKs take DT from d to max(d − N, 0) and ST likewise, whatever STEPs and other operations stand between,
provided no STEP executes the instruction that writes that timer and no RESET intervenes (60_exceptions.md R263). -/
def Obligations.TicksCountDown : Prop :=
  ∀ (ops : List HostOp) (s t : State), .reset ∉ ops → runOps ops s = some t →
    (NeverExecutes writesDt ops s → t.dt.toNat = s.dt.toNat - tickCount ops) ∧
    (NeverExecutes writesSt ops s → t.st.toNat = s.st.toNat - tickCount ops)

/-- A self-jump runs for ever and changes nothing but KB_PREV (70_reset_and_hazards.md R292), the report output being that
of the last STEP. -/
def Obligations.SelfJumpChangesNothing : Prop :=
  ∀ (s : State) (k : Nat), AtSelfJump s → s.host = [] →
    core.run (k + 1) s = .next { s with kbPrev := s.keys, report := none }
end

