-- ==== Sys2Proof/Laws/Display.lean ====
section
/-! SUPPORT. The sprite engine pixel by pixel: no pixel is visited twice in one draw, so the loop inverts exactly the
pixels the sprite's set bits fall on, and the flag says whether one of them was set (44_display.md R201–R205). -/

namespace Sys2Proof.Machine

/-- Inverting a pixel changes that pixel and no other. -/
theorem pixel_flipPixel (d : Display) (px px' : Fin 64) (py py' : Fin 32) :
    pixel (flipPixel d px py) px' py' =
      if px' = px ∧ py' = py then !pixel d px py else pixel d px' py' := by
  simp only [pixel, flipPixel, Vector.get_eq_getElem, Vector.getElem_set, Fin.ext_iff]
  by_cases hx : px.val = px'.val
  · by_cases hy : py.val = py'.val
    · simp [hx, hy]
    · simp [hx, hy, Ne.symm hy]
  · simp [hx, Ne.symm hx, eq_comm]

/-- Two displays with equal pixels are equal. -/
theorem display_ext {d d' : Display} (h : ∀ px py, pixel d px py = pixel d' px py) : d = d' := by
  apply Vector.ext
  intro a ha
  apply Vector.ext
  intro b hb
  exact h ⟨a, ha⟩ ⟨b, hb⟩

/-- What a draw has done to canvas `k`, giving `k'`, when it has inverted exactly the pixels `P` holds of. -/
structure Inverted (P : Fin 64 → Fin 32 → Prop) (k k' : Canvas) : Prop where
  covered : ∀ px py, P px py → pixel k'.disp px py = !pixel k.disp px py
  others : ∀ px py, ¬ P px py → pixel k'.disp px py = pixel k.disp px py
  hit : k'.hit = true ↔ k.hit = true ∨ ∃ px py, P px py ∧ pixel k.disp px py = true

theorem Inverted.refl (k : Canvas) : Inverted (fun _ _ => False) k k :=
  ⟨fun _ _ h => h.elim, fun _ _ _ => rfl, by simp⟩

theorem Inverted.congr {P Q : Fin 64 → Fin 32 → Prop} {k k' : Canvas} (h : Inverted P k k')
    (hPQ : ∀ px py, P px py ↔ Q px py) : Inverted Q k k' := by
  have : P = Q := funext fun px => funext fun py => propext (hPQ px py)
  rwa [← this]

/-- Two draws over disjoint pixels. -/
theorem Inverted.trans {P Q : Fin 64 → Fin 32 → Prop} {k k' k'' : Canvas} (h : Inverted P k k') (h' : Inverted Q k' k'')
    (hdis : ∀ px py, P px py → ¬ Q px py) : Inverted (fun px py => P px py ∨ Q px py) k k'' := by
  refine ⟨?_, ?_, ?_⟩
  · rintro px py (hp | hq)
    · rw [h'.others px py (hdis px py hp), h.covered px py hp]
    · rw [h'.covered px py hq, h.others px py (fun hp => hdis px py hp hq)]
  · intro px py hn
    rw [h'.others px py (fun hq => hn (.inr hq)), h.others px py (fun hp => hn (.inl hp))]
  · rw [h'.hit, h.hit]
    constructor
    · rintro ((h1 | ⟨px, py, hp, hv⟩) | ⟨px, py, hq, hv⟩)
      · exact .inl h1
      · exact .inr ⟨px, py, .inl hp, hv⟩
      · exact .inr ⟨px, py, .inr hq, by rwa [h.others px py (fun hp => hdis px py hp hq)] at hv⟩
    · rintro (h1 | ⟨px, py, hp | hq, hv⟩)
      · exact .inl (.inl h1)
      · exact .inl (.inr ⟨px, py, hp, hv⟩)
      · exact .inr ⟨px, py, hq, by rwa [h.others px py (fun hp => hdis px py hp hq)]⟩

/-- One set sprite bit inverts one pixel. -/
theorem Canvas.draw_inverted (k : Canvas) (px : Fin 64) (py : Fin 32) :
    Inverted (fun px' py' => px' = px ∧ py' = py) k (k.draw px py) := by
  refine ⟨?_, ?_, ?_⟩
  · rintro _ _ ⟨rfl, rfl⟩
    simp [Canvas.draw, pixel_flipPixel]
  · intro px' py' h
    simp [Canvas.draw, pixel_flipPixel, h]
  · simp [Canvas.draw]

/-- The pixels of a row at `(x0, y)`: those of its set bits among the first `n` columns. -/
def RowCovers (x0 y : Nat) (row : Byte) (n : Nat) (px : Fin 64) (py : Fin 32) : Prop :=
  ∃ c < n, row.getLsbD (7 - c) = true ∧ px.val = (x0 + c) % 64 ∧ py.val = y % 32

/-- The columns of one row are distinct pixels, so a row inverts exactly its set bits' pixels (R205). -/
theorem drawRow_inverted (x0 y : Nat) (row : Byte) (k : Canvas) :
    Inverted (RowCovers x0 y row 8) k (drawRow x0 y row k) := by
  unfold drawRow
  have main : ∀ n, n ≤ 8 → Inverted (RowCovers x0 y row n) k
      ((List.range n).foldl (fun k c => if row.getLsbD (7 - c) then k.draw (wrapX (x0 + c)) (wrapY y) else k) k) := by
    intro n
    induction n with
    | zero =>
      intro _
      exact (Inverted.refl k).congr fun px py => by simp [RowCovers]
    | succ n ih =>
      intro hn
      rw [List.range_succ, List.foldl_append]
      have ih := ih (by omega)
      by_cases hbit : row.getLsbD (7 - n) = true
      · simp only [List.foldl_cons, List.foldl_nil, hbit, ↓reduceIte]
        refine (ih.trans (Canvas.draw_inverted _ (wrapX (x0 + n)) (wrapY y)) ?_).congr ?_
        · rintro px py ⟨c, hc, -, hx, -⟩ ⟨h1, -⟩
          have : px.val = (x0 + n) % 64 := congrArg Fin.val h1
          omega
        · intro px py
          constructor
          · rintro (⟨c, hc, h⟩ | ⟨h1, h2⟩)
            · exact ⟨c, by omega, h⟩
            · exact ⟨n, by omega, hbit, congrArg Fin.val h1, congrArg Fin.val h2⟩
          · rintro ⟨c, hc, h⟩
            by_cases hcn : c = n
            · subst hcn
              exact .inr ⟨Fin.ext h.2.1, Fin.ext h.2.2⟩
            · exact .inl ⟨c, by omega, h⟩
      · have h := ih.congr (Q := RowCovers x0 y row (n + 1)) (fun px py => by
          constructor
          · rintro ⟨c, hc, h⟩
            exact ⟨c, by omega, h⟩
          · rintro ⟨c, hc, h⟩
            refine ⟨c, ?_, h⟩
            by_contra hcn
            have : c = n := by omega
            subst this
            exact hbit h.1)
        simpa [hbit] using h
  exact main 8 (Nat.le_refl 8)

/-- The pixels of the first `n` rows of the sprite at `base`. -/
def SpriteRowsCover (m : Memory) (base x0 y0 n : Nat) (px : Fin 64) (py : Fin 32) : Prop :=
  ∃ r < n, RowCovers x0 (y0 + r) (m.read (base + r)) 8 px py

/-- The rows of one sprite are distinct, so a sprite of at most 31 rows inverts exactly its set bits' pixels, and its
flag says whether one of them was set (R201, R204, R205). -/
theorem drawSprite_inverted (m : Memory) (base x0 y0 n : Nat) (d : Display) (hn : n ≤ 31) :
    Inverted (SpriteRowsCover m base x0 y0 n) ⟨d, false⟩ (drawSprite m base x0 y0 n d) := by
  unfold drawSprite
  induction n with
  | zero => exact (Inverted.refl _).congr fun px py => by simp [SpriteRowsCover]
  | succ n ih =>
    rw [List.range_succ, List.foldl_append]
    refine ((ih (by omega)).trans (drawRow_inverted x0 (y0 + n) (m.read (base + n)) _) ?_).congr ?_
    · rintro px py ⟨r, hr, c, -, -, -, hy⟩ ⟨c', -, -, -, hy'⟩
      omega
    · intro px py
      constructor
      · rintro (⟨r, hr, h⟩ | h)
        · exact ⟨r, by omega, h⟩
        · exact ⟨n, by omega, h⟩
      · rintro ⟨r, hr, h⟩
        by_cases hrn : r = n
        · subst hrn
          exact .inr h
        · exact .inl ⟨r, by omega, h⟩

end Sys2Proof.Machine
end

