-- ==== Sys2Proof/Laws/Encoding.lean ====
section
/-! SUPPORT. The fields of the pieces an instruction word is built from: each piece gives its own field and nothing in the
others (30_encoding.md R91). -/

namespace Sys2Proof

@[simp] theorem putX_op (x : RegIdx) : (putX x).extractLsb' 12 4 = 0 := by revert x; decide
@[simp] theorem putX_x (x : RegIdx) : (putX x).extractLsb' 8 4 = BitVec.ofFin x := by revert x; decide
@[simp] theorem putX_y (x : RegIdx) : (putX x).extractLsb' 4 4 = 0 := by revert x; decide
@[simp] theorem putX_n (x : RegIdx) : (putX x).extractLsb' 0 4 = 0 := by revert x; decide
@[simp] theorem putX_nn (x : RegIdx) : (putX x).extractLsb' 0 8 = 0 := by revert x; decide

@[simp] theorem putY_op (y : RegIdx) : (putY y).extractLsb' 12 4 = 0 := by revert y; decide
@[simp] theorem putY_x (y : RegIdx) : (putY y).extractLsb' 8 4 = 0 := by revert y; decide
@[simp] theorem putY_y (y : RegIdx) : (putY y).extractLsb' 4 4 = BitVec.ofFin y := by revert y; decide
@[simp] theorem putY_n (y : RegIdx) : (putY y).extractLsb' 0 4 = 0 := by revert y; decide

@[simp] theorem putN_op (n : Height) : (putN n).extractLsb' 12 4 = 0 := by revert n; decide
@[simp] theorem putN_x (n : Height) : (putN n).extractLsb' 8 4 = 0 := by revert n; decide
@[simp] theorem putN_y (n : Height) : (putN n).extractLsb' 4 4 = 0 := by revert n; decide
@[simp] theorem putN_n (n : Height) : (putN n).extractLsb' 0 4 = BitVec.ofFin n := by revert n; decide

/-- The bits of a zero-extended value above its width are zero. -/
theorem extract_setWidth_above {n : Nat} (v : BitVec n) (lo len : Nat) (h : n ≤ lo) :
    (v.setWidth 16).extractLsb' lo len = 0 := by
  apply BitVec.eq_of_getLsbD_eq
  intro k hk
  simp only [BitVec.getLsbD_extractLsb', BitVec.getLsbD_setWidth]
  rw [BitVec.getLsbD_of_ge v (lo + k) (by omega)]
  simp

@[simp] theorem nn_op (nn : Byte) : (nn.setWidth 16).extractLsb' 12 4 = 0 := extract_setWidth_above nn 12 4 (by decide)
@[simp] theorem nn_x (nn : Byte) : (nn.setWidth 16).extractLsb' 8 4 = 0 := extract_setWidth_above nn 8 4 (by decide)
@[simp] theorem nn_nn (nn : Byte) : (nn.setWidth 16).extractLsb' 0 8 = nn := by
  apply BitVec.eq_of_getLsbD_eq
  intro k hk
  simp [show k < 16 by omega, hk]

@[simp] theorem nnn_op (nnn : Addr12) : (nnn.setWidth 16).extractLsb' 12 4 = 0 :=
  extract_setWidth_above nnn 12 4 (by decide)
@[simp] theorem nnn_nnn (nnn : Addr12) : (nnn.setWidth 16).extractLsb' 0 12 = nnn := by
  apply BitVec.eq_of_getLsbD_eq
  intro k hk
  simp [show k < 16 by omega, hk]

theorem putX_fieldX (w : Word) : putX (fieldX w) = (w.extractLsb' 8 4).setWidth 16 <<< 8 := by
  have h : BitVec.ofNat 16 (fieldX w).val = (w.extractLsb' 8 4).setWidth 16 := BitVec.ofNat_toNat 16 _
  rw [putX, h]

theorem putY_fieldY (w : Word) : putY (fieldY w) = (w.extractLsb' 4 4).setWidth 16 <<< 4 := by
  have h : BitVec.ofNat 16 (fieldY w).val = (w.extractLsb' 4 4).setWidth 16 := BitVec.ofNat_toNat 16 _
  rw [putY, h]

theorem putN_fieldN (w : Word) : putN (fieldN w) = (w.extractLsb' 0 4).setWidth 16 := BitVec.ofNat_toNat 16 _

theorem ofNat_fieldOp (w : Word) : BitVec.ofNat 16 (fieldOp w) = (w.extractLsb' 12 4).setWidth 16 :=
  BitVec.ofNat_toNat 16 _

/-- A word is its four nibbles (R91). -/
theorem word_eq_nibbles (w : Word) :
    w = (BitVec.ofNat 16 (fieldOp w) <<< 12) ||| putX (fieldX w) ||| putY (fieldY w) ||| putN (fieldN w) := by
  rw [putX_fieldX, putY_fieldY, putN_fieldN, ofNat_fieldOp]
  apply BitVec.eq_of_getLsbD_eq
  intro k hk
  simp only [BitVec.getLsbD_or, BitVec.getLsbD_shiftLeft, BitVec.getLsbD_setWidth, BitVec.getLsbD_extractLsb']
  interval_cases k <;> simp

/-- NN is the two low nibbles. -/
theorem nn_eq_nibbles (w : Word) : zext16 (fieldNN w) = putY (fieldY w) ||| putN (fieldN w) := by
  rw [putY_fieldY, putN_fieldN]
  apply BitVec.eq_of_getLsbD_eq
  intro k hk
  simp only [zext16, fieldNN, BitVec.getLsbD_or, BitVec.getLsbD_shiftLeft, BitVec.getLsbD_setWidth,
    BitVec.getLsbD_extractLsb']
  interval_cases k <;> simp

/-- NNN is the three low nibbles. -/
theorem nnn_eq_nibbles (w : Word) :
    zext16 (fieldNNN w) = putX (fieldX w) ||| putY (fieldY w) ||| putN (fieldN w) := by
  rw [putX_fieldX, putY_fieldY, putN_fieldN]
  apply BitVec.eq_of_getLsbD_eq
  intro k hk
  simp only [zext16, fieldNNN, BitVec.getLsbD_or, BitVec.getLsbD_shiftLeft, BitVec.getLsbD_setWidth,
    BitVec.getLsbD_extractLsb']
  interval_cases k <;> simp

/-- The fields as parts of the word's value: op, N and NN as quotient and remainders. -/
theorem fieldOp_eq (w : Word) : fieldOp w = w.toNat / 0x1000 := by
  have := w.isLt
  simp only [fieldOp, BitVec.extractLsb'_toNat, Nat.shiftRight_eq_div_pow]
  omega

theorem fieldN_eq (w : Word) : (fieldN w).val = w.toNat % 0x10 := by
  simp [fieldN]

theorem fieldNN_eq (w : Word) : (fieldNN w).toNat = w.toNat % 0x100 := by
  simp [fieldNN]

/-- Two bytes and their word (20_memory.md R63). -/
@[simp] theorem wordOfBytes_hi (hi lo : Byte) : (wordOfBytes hi lo).extractLsb' 8 8 = hi := by
  apply BitVec.eq_of_getLsbD_eq
  intro k hk
  simp only [wordOfBytes, BitVec.getLsbD_extractLsb', BitVec.getLsbD_append, hk, decide_true, Bool.true_and,
    show ¬ 8 + k < 8 by omega, ↓reduceIte, Nat.add_sub_cancel_left]

@[simp] theorem wordOfBytes_lo (hi lo : Byte) : (wordOfBytes hi lo).extractLsb' 0 8 = lo := by
  apply BitVec.eq_of_getLsbD_eq
  intro k hk
  simp only [wordOfBytes, BitVec.getLsbD_extractLsb', BitVec.getLsbD_append, hk, decide_true, Bool.true_and,
    Nat.zero_add, ↓reduceIte]

/-- Laying a word out and reading it back. -/
theorem wordOfBytes_bytesOfWord (w : Word) : wordOfBytes (w.extractLsb' 8 8) (w.extractLsb' 0 8) = w := by
  apply BitVec.eq_of_getLsbD_eq
  intro k hk
  simp only [wordOfBytes, BitVec.getLsbD_append, BitVec.getLsbD_extractLsb']
  by_cases h : k < 8
  · simp [h]
  · simp [h, show k - 8 < 8 by omega, show 8 + (k - 8) = k by omega]

/-- Every operand field fits (R91). -/
@[simp] theorem Field.x_fits (r : RegIdx) : (Field.x r).fits = true := by revert r; decide
@[simp] theorem Field.y_fits (r : RegIdx) : (Field.y r).fits = true := by revert r; decide
@[simp] theorem Field.n_fits (h : Height) : (Field.n h).fits = true := by revert h; decide
@[simp] theorem Field.nn_fits (b : Byte) : (Field.nn b).fits = true := decide_eq_true b.isLt
@[simp] theorem Field.nnn_fits (a : Addr12) : (Field.nnn a).fits = true := decide_eq_true a.isLt

/-- The operand types already fit every field (R91). -/
theorem Instr.wellFormed_all (i : Instr) : i.wellFormed = true := by
  cases i <;> simp [Instr.wellFormed, Instr.fields]

end Sys2Proof
end

