-- ==== Sys2Proof/Laws/Memory.lean ====
section
/-! SUPPORT. The laws of the memory: a read after a write, the bytes a block write stores, and the canonical form kept. -/

namespace Sys2Proof.Machine

@[simp] theorem Memory.read_nil (a : Nat) : Memory.read [] a = Memory.unlisted a := rfl

theorem Memory.read_cons (k : Nat) (c : Byte) (m : Memory) (a : Nat) :
    Memory.read ((k, c) :: m) a = if k = a then c else Memory.read m a := rfl

/-- Putting a cell in front that no listed cell precedes: it reads as written. -/
theorem Memory.read_putCell (a : Nat) (b : Byte) (m : Memory) (a' : Nat) (h : Memory.read m a = Memory.unlisted a) :
    Memory.read (Memory.cons a b m) a' = if a' = a then b else Memory.read m a' := by
  unfold Memory.cons
  split
  · split
    · simp_all
    · rfl
  · rw [Memory.read_cons]
    simp only [eq_comm]

theorem Memory.wfFrom_mono {lo lo' : Nat} {m : Memory} (hlo : lo' ≤ lo) (h : Memory.wfFrom lo m = true) :
    Memory.wfFrom lo' m = true := by
  cases m with
  | nil => rfl
  | cons c m =>
    obtain ⟨k, c⟩ := c
    simp only [Memory.wfFrom, Bool.and_eq_true, decide_eq_true_eq] at h ⊢
    exact ⟨⟨⟨by omega, h.1.1.2⟩, h.1.2⟩, h.2⟩

/-- Below its first listed address, a memory reads as unlisted. -/
theorem Memory.read_below {lo : Nat} {m : Memory} (h : Memory.wfFrom lo m = true) {a : Nat} (ha : a < lo) :
    Memory.read m a = Memory.unlisted a := by
  induction m generalizing lo with
  | nil => rfl
  | cons c m ih =>
    obtain ⟨k, c⟩ := c
    simp only [Memory.wfFrom, Bool.and_eq_true, decide_eq_true_eq] at h
    rw [Memory.read_cons, if_neg (by omega)]
    exact ih h.2 (by omega)

/-- A write keeps the cells rising and canonical, and reads back; every other address reads as before. -/
theorem Memory.write_spec {lo : Nat} {m : Memory} (h : Memory.wfFrom lo m = true) (a : Nat) (b : Byte)
    (ha : a < memSize) :
    Memory.wfFrom (min lo a) (m.write a b) = true ∧
      ∀ a', Memory.read (m.write a b) a' = if a' = a then b else Memory.read m a' := by
  induction m generalizing lo with
  | nil =>
    refine ⟨?_, fun a' => Memory.read_putCell a b [] a' rfl⟩
    simp only [Memory.write, Memory.cons]
    split <;> simp_all [Memory.wfFrom]
  | cons c m ih =>
    obtain ⟨k, c⟩ := c
    have h' := h
    simp only [Memory.wfFrom, Bool.and_eq_true, decide_eq_true_eq] at h
    obtain ⟨⟨⟨hk, hk'⟩, hc⟩, hm⟩ := h
    unfold Memory.write
    by_cases h1 : a < k
    · simp only [if_pos h1]
      have hbelow : Memory.read ((k, c) :: m) a = Memory.unlisted a :=
        Memory.read_below (lo := k) (by simp [Memory.wfFrom, hk', hc, hm]) h1
      refine ⟨?_, fun a' => Memory.read_putCell a b _ a' hbelow⟩
      unfold Memory.cons
      split
      · exact Memory.wfFrom_mono (Nat.min_le_left _ _) h'
      · simp_all [Memory.wfFrom]
    · simp only [if_neg h1]
      by_cases h2 : a = k
      · subst h2
        simp only [↓reduceIte]
        have hbelow : Memory.read m a = Memory.unlisted a := Memory.read_below hm (by omega)
        refine ⟨?_, fun a' => ?_⟩
        · unfold Memory.cons
          split
          · exact Memory.wfFrom_mono (lo := a + 1) (by omega) hm
          · simp_all [Memory.wfFrom]
        · rw [Memory.read_putCell a b m a' hbelow, Memory.read_cons]
          split
          · rfl
          · rw [if_neg (by omega)]
      · simp only [if_neg h2]
        obtain ⟨hw, hr⟩ := ih hm
        refine ⟨?_, fun a' => ?_⟩
        · have hw' := Memory.wfFrom_mono (lo' := k + 1) (by omega) hw
          simp [Memory.wfFrom, hk', hc, hw']; omega
        · rw [Memory.read_cons, Memory.read_cons, hr a']
          split
          · rw [if_neg (by omega)]
          · rfl

/-- A write inside the memory keeps the canonical form. -/
theorem Memory.write_wf {m : Memory} (h : m.wf = true) (a : Nat) (b : Byte) (ha : a < memSize) :
    (m.write a b).wf = true :=
  Memory.wfFrom_mono (Nat.zero_le _) (Memory.write_spec h a b ha).1

/-- The byte written reads back. -/
theorem Memory.read_write_same (m : Memory) (a : Nat) (b : Byte) (h : m.wf = true) (ha : a < memSize) :
    (m.write a b).read a = b := by
  rw [(Memory.write_spec h a b ha).2 a, if_pos rfl]

/-- A write leaves every other address alone, whatever the form of the memory. -/
theorem Memory.read_write_other (m : Memory) (a : Nat) (b : Byte) (a' : Nat) (ha : a' ≠ a) :
    (m.write a b).read a' = m.read a' := by
  have hput : ∀ m' : Memory, (Memory.cons a b m').read a' = m'.read a' := by
    intro m'
    unfold Memory.cons
    split
    · rfl
    · rw [Memory.read_cons, if_neg (by omega)]
  induction m with
  | nil => exact hput []
  | cons c m ih =>
    obtain ⟨k, c⟩ := c
    unfold Memory.write
    split
    · exact hput _
    · split
      · rw [hput, Memory.read_cons, if_neg (by omega)]
      · rw [Memory.read_cons, Memory.read_cons, ih]

/-- A block write inside the memory keeps the canonical form. -/
theorem Memory.writeBytes_wf {m : Memory} (h : m.wf = true) (bs : List Byte) (a : Nat) (ha : a + bs.length ≤ memSize) :
    (m.writeBytes a bs).wf = true := by
  induction bs generalizing m a with
  | nil => exact h
  | cons b bs ih =>
    simp only [List.length_cons] at ha
    exact ih (Memory.write_wf h a b (by omega)) (a + 1) (by omega)

/-- A block write changes no address outside the block. -/
theorem Memory.read_writeBytes_outside (m : Memory) (bs : List Byte) (a a' : Nat)
    (h : ¬ (a ≤ a' ∧ a' < a + bs.length)) : (m.writeBytes a bs).read a' = m.read a' := by
  induction bs generalizing m a with
  | nil => rfl
  | cons b bs ih =>
    simp only [List.length_cons] at h
    rw [show m.writeBytes a (b :: bs) = (m.write a b).writeBytes (a + 1) bs from rfl, ih _ _ (by omega),
      Memory.read_write_other _ _ _ _ (by omega)]

/-- The bytes of a block write read back in increasing address order (20_memory.md R71). -/
theorem Memory.read_writeBytes_inside {m : Memory} (h : m.wf = true) (bs : List Byte) (a k : Nat) (hk : k < bs.length)
    (ha : a + bs.length ≤ memSize) : (m.writeBytes a bs).read (a + k) = bs[k] := by
  induction bs generalizing m a k with
  | nil => simp at hk
  | cons b bs ih =>
    simp only [List.length_cons] at hk ha
    have hw := Memory.write_wf h a b (by omega)
    rw [show m.writeBytes a (b :: bs) = (m.write a b).writeBytes (a + 1) bs from rfl]
    cases k with
    | zero =>
      change ((m.write a b).writeBytes (a + 1) bs).read a = b
      rw [Memory.read_writeBytes_outside _ bs (a + 1) a (by omega),
        Memory.read_write_same _ _ _ h (by omega)]
    | succ k =>
      rw [show a + (k + 1) = a + 1 + k by omega, ih hw (a + 1) k (by omega) (by omega), List.getElem_cons_succ]

/-- An access of at least one byte is in range exactly when its last byte is (20_memory.md R72). -/
theorem inMemory_iff (base n : Nat) : inMemory base n = true ↔ n = 0 ∨ base + n ≤ memSize := by
  simp only [inMemory, memSize, Bool.or_eq_true, beq_iff_eq, decide_eq_true_eq]; omega

/-- The reset memory is canonical when MEM_INIT is. -/
theorem Memory.initial_wf {p : Params} (h : Memory.wf p.memInit = true) : (Memory.initial p).wf = true :=
  Memory.writeBytes_wf h _ _ (by simp [fontBase, memSize])

/-- The reset memory holds FONT_DATA at 0x050–0x09F (20_memory.md R68). -/
theorem Memory.initial_font {p : Params} (h : Memory.wf p.memInit = true) (k : Fin 80) :
    (Memory.initial p).read (fontBase + k.val) = p.fontData.get k := by
  rw [Memory.initial, Memory.read_writeBytes_inside h _ _ k.val (by simp) (by simp [fontBase, memSize]), Vector.getElem_toList]
  rfl

/-- The reset memory holds MEM_INIT elsewhere (70_reset_and_hazards.md R280). -/
theorem Memory.initial_other (p : Params) (a : Nat) (h : ¬ (fontBase ≤ a ∧ a < fontBase + 80)) :
    (Memory.initial p).read a = Memory.read p.memInit a :=
  Memory.read_writeBytes_outside _ _ _ _ (by simpa using h)

/-- The machine after reset lists no byte of memory. -/
theorem Memory.initial_reference : Memory.initial referenceParams = [] := by rfl

end Sys2Proof.Machine
end

