-- ==== Sys2Proof/Laws/State.lean ====
section
/-! SUPPORT. What each named update of the state does to each field: one lemma per field per update, and what it does to
a register read. -/

namespace Sys2Proof.Machine

theorem State.reg_eq (s : State) (r : RegIdx) : s.reg r = s.v[r.val] := rfl

/-- A register reads as last written. -/
@[simp] theorem State.setReg_reg (s : State) (x : RegIdx) (b : Byte) (r : RegIdx) :
    (s.setReg x b).reg r = if r = x then b else s.reg r := by
  simp only [State.reg_eq, State.setReg, Vector.getElem_set, Fin.ext_iff, eq_comm]

@[simp] theorem State.setV_reg (s : State) (w : Vector Byte 16) (r : RegIdx) : (s.setV w).reg r = w.get r := rfl

@[simp] theorem State.writeResult_reg (s : State) (x : RegIdx) (b : Byte) (r : RegIdx) :
    (s.writeResult x b).reg r = if r = x then b else s.reg r := State.setReg_reg s x b r

/-- The flag is written last: VF holds it whatever X is. -/
@[simp] theorem State.writeWithFlag_reg (s : State) (x : RegIdx) (b f : Byte) (r : RegIdx) :
    (s.writeWithFlag x b f).reg r = if r = 0xF then f else if r = x then b else s.reg r := by
  rw [show (s.writeWithFlag x b f).reg r = ((s.setReg x b).setReg 0xF f).reg r from rfl]
  simp

@[simp] theorem State.setReg_v (s : State) (x : RegIdx) (b : Byte) : (s.setReg x b).v = s.v.set x.val b := rfl
@[simp] theorem State.setReg_i (s : State) (x : RegIdx) (b : Byte) : (s.setReg x b).i = s.i := rfl
@[simp] theorem State.setReg_pc (s : State) (x : RegIdx) (b : Byte) : (s.setReg x b).pc = s.pc := rfl
@[simp] theorem State.setReg_sp (s : State) (x : RegIdx) (b : Byte) : (s.setReg x b).sp = s.sp := rfl
@[simp] theorem State.setReg_stack (s : State) (x : RegIdx) (b : Byte) : (s.setReg x b).stack = s.stack := rfl
@[simp] theorem State.setReg_dt (s : State) (x : RegIdx) (b : Byte) : (s.setReg x b).dt = s.dt := rfl
@[simp] theorem State.setReg_st (s : State) (x : RegIdx) (b : Byte) : (s.setReg x b).st = s.st := rfl
@[simp] theorem State.setReg_mem (s : State) (x : RegIdx) (b : Byte) : (s.setReg x b).mem = s.mem := rfl
@[simp] theorem State.setReg_disp (s : State) (x : RegIdx) (b : Byte) : (s.setReg x b).disp = s.disp := rfl
@[simp] theorem State.setReg_rs (s : State) (x : RegIdx) (b : Byte) : (s.setReg x b).rs = s.rs := rfl
@[simp] theorem State.setReg_kbPrev (s : State) (x : RegIdx) (b : Byte) : (s.setReg x b).kbPrev = s.kbPrev := rfl
@[simp] theorem State.setReg_report (s : State) (x : RegIdx) (b : Byte) : (s.setReg x b).report = s.report := rfl
@[simp] theorem State.setReg_loadError (s : State) (x : RegIdx) (b : Byte) : (s.setReg x b).loadError = s.loadError := rfl
@[simp] theorem State.setReg_keys (s : State) (x : RegIdx) (b : Byte) : (s.setReg x b).keys = s.keys := rfl
@[simp] theorem State.setReg_randIn (s : State) (x : RegIdx) (b : Byte) : (s.setReg x b).randIn = s.randIn := rfl
@[simp] theorem State.setReg_host (s : State) (x : RegIdx) (b : Byte) : (s.setReg x b).host = s.host := rfl
@[simp] theorem State.setReg_draws (s : State) (x : RegIdx) (b : Byte) : (s.setReg x b).draws = s.draws := rfl
@[simp] theorem State.setReg_params (s : State) (x : RegIdx) (b : Byte) : (s.setReg x b).params = s.params := rfl

@[simp] theorem State.setV_v (s : State) (w : Vector Byte 16) : (s.setV w).v = w := rfl
@[simp] theorem State.setV_i (s : State) (w : Vector Byte 16) : (s.setV w).i = s.i := rfl
@[simp] theorem State.setV_pc (s : State) (w : Vector Byte 16) : (s.setV w).pc = s.pc := rfl
@[simp] theorem State.setV_sp (s : State) (w : Vector Byte 16) : (s.setV w).sp = s.sp := rfl
@[simp] theorem State.setV_stack (s : State) (w : Vector Byte 16) : (s.setV w).stack = s.stack := rfl
@[simp] theorem State.setV_dt (s : State) (w : Vector Byte 16) : (s.setV w).dt = s.dt := rfl
@[simp] theorem State.setV_st (s : State) (w : Vector Byte 16) : (s.setV w).st = s.st := rfl
@[simp] theorem State.setV_mem (s : State) (w : Vector Byte 16) : (s.setV w).mem = s.mem := rfl
@[simp] theorem State.setV_disp (s : State) (w : Vector Byte 16) : (s.setV w).disp = s.disp := rfl
@[simp] theorem State.setV_rs (s : State) (w : Vector Byte 16) : (s.setV w).rs = s.rs := rfl
@[simp] theorem State.setV_kbPrev (s : State) (w : Vector Byte 16) : (s.setV w).kbPrev = s.kbPrev := rfl
@[simp] theorem State.setV_report (s : State) (w : Vector Byte 16) : (s.setV w).report = s.report := rfl
@[simp] theorem State.setV_loadError (s : State) (w : Vector Byte 16) : (s.setV w).loadError = s.loadError := rfl
@[simp] theorem State.setV_keys (s : State) (w : Vector Byte 16) : (s.setV w).keys = s.keys := rfl
@[simp] theorem State.setV_randIn (s : State) (w : Vector Byte 16) : (s.setV w).randIn = s.randIn := rfl
@[simp] theorem State.setV_host (s : State) (w : Vector Byte 16) : (s.setV w).host = s.host := rfl
@[simp] theorem State.setV_draws (s : State) (w : Vector Byte 16) : (s.setV w).draws = s.draws := rfl
@[simp] theorem State.setV_params (s : State) (w : Vector Byte 16) : (s.setV w).params = s.params := rfl

@[simp] theorem State.setPc_reg (s : State) (a : Word) (q : RegIdx) : (s.setPc a).reg q = s.reg q := rfl
@[simp] theorem State.setPc_v (s : State) (a : Word) : (s.setPc a).v = s.v := rfl
@[simp] theorem State.setPc_i (s : State) (a : Word) : (s.setPc a).i = s.i := rfl
@[simp] theorem State.setPc_pc (s : State) (a : Word) : (s.setPc a).pc = a := rfl
@[simp] theorem State.setPc_sp (s : State) (a : Word) : (s.setPc a).sp = s.sp := rfl
@[simp] theorem State.setPc_stack (s : State) (a : Word) : (s.setPc a).stack = s.stack := rfl
@[simp] theorem State.setPc_dt (s : State) (a : Word) : (s.setPc a).dt = s.dt := rfl
@[simp] theorem State.setPc_st (s : State) (a : Word) : (s.setPc a).st = s.st := rfl
@[simp] theorem State.setPc_mem (s : State) (a : Word) : (s.setPc a).mem = s.mem := rfl
@[simp] theorem State.setPc_disp (s : State) (a : Word) : (s.setPc a).disp = s.disp := rfl
@[simp] theorem State.setPc_rs (s : State) (a : Word) : (s.setPc a).rs = s.rs := rfl
@[simp] theorem State.setPc_kbPrev (s : State) (a : Word) : (s.setPc a).kbPrev = s.kbPrev := rfl
@[simp] theorem State.setPc_report (s : State) (a : Word) : (s.setPc a).report = s.report := rfl
@[simp] theorem State.setPc_loadError (s : State) (a : Word) : (s.setPc a).loadError = s.loadError := rfl
@[simp] theorem State.setPc_keys (s : State) (a : Word) : (s.setPc a).keys = s.keys := rfl
@[simp] theorem State.setPc_randIn (s : State) (a : Word) : (s.setPc a).randIn = s.randIn := rfl
@[simp] theorem State.setPc_host (s : State) (a : Word) : (s.setPc a).host = s.host := rfl
@[simp] theorem State.setPc_draws (s : State) (a : Word) : (s.setPc a).draws = s.draws := rfl
@[simp] theorem State.setPc_params (s : State) (a : Word) : (s.setPc a).params = s.params := rfl

@[simp] theorem State.setI_reg (s : State) (a : Word) (q : RegIdx) : (s.setI a).reg q = s.reg q := rfl
@[simp] theorem State.setI_v (s : State) (a : Word) : (s.setI a).v = s.v := rfl
@[simp] theorem State.setI_i (s : State) (a : Word) : (s.setI a).i = a := rfl
@[simp] theorem State.setI_pc (s : State) (a : Word) : (s.setI a).pc = s.pc := rfl
@[simp] theorem State.setI_sp (s : State) (a : Word) : (s.setI a).sp = s.sp := rfl
@[simp] theorem State.setI_stack (s : State) (a : Word) : (s.setI a).stack = s.stack := rfl
@[simp] theorem State.setI_dt (s : State) (a : Word) : (s.setI a).dt = s.dt := rfl
@[simp] theorem State.setI_st (s : State) (a : Word) : (s.setI a).st = s.st := rfl
@[simp] theorem State.setI_mem (s : State) (a : Word) : (s.setI a).mem = s.mem := rfl
@[simp] theorem State.setI_disp (s : State) (a : Word) : (s.setI a).disp = s.disp := rfl
@[simp] theorem State.setI_rs (s : State) (a : Word) : (s.setI a).rs = s.rs := rfl
@[simp] theorem State.setI_kbPrev (s : State) (a : Word) : (s.setI a).kbPrev = s.kbPrev := rfl
@[simp] theorem State.setI_report (s : State) (a : Word) : (s.setI a).report = s.report := rfl
@[simp] theorem State.setI_loadError (s : State) (a : Word) : (s.setI a).loadError = s.loadError := rfl
@[simp] theorem State.setI_keys (s : State) (a : Word) : (s.setI a).keys = s.keys := rfl
@[simp] theorem State.setI_randIn (s : State) (a : Word) : (s.setI a).randIn = s.randIn := rfl
@[simp] theorem State.setI_host (s : State) (a : Word) : (s.setI a).host = s.host := rfl
@[simp] theorem State.setI_draws (s : State) (a : Word) : (s.setI a).draws = s.draws := rfl
@[simp] theorem State.setI_params (s : State) (a : Word) : (s.setI a).params = s.params := rfl

@[simp] theorem State.setDt_reg (s : State) (b : Byte) (q : RegIdx) : (s.setDt b).reg q = s.reg q := rfl
@[simp] theorem State.setDt_v (s : State) (b : Byte) : (s.setDt b).v = s.v := rfl
@[simp] theorem State.setDt_i (s : State) (b : Byte) : (s.setDt b).i = s.i := rfl
@[simp] theorem State.setDt_pc (s : State) (b : Byte) : (s.setDt b).pc = s.pc := rfl
@[simp] theorem State.setDt_sp (s : State) (b : Byte) : (s.setDt b).sp = s.sp := rfl
@[simp] theorem State.setDt_stack (s : State) (b : Byte) : (s.setDt b).stack = s.stack := rfl
@[simp] theorem State.setDt_dt (s : State) (b : Byte) : (s.setDt b).dt = b := rfl
@[simp] theorem State.setDt_st (s : State) (b : Byte) : (s.setDt b).st = s.st := rfl
@[simp] theorem State.setDt_mem (s : State) (b : Byte) : (s.setDt b).mem = s.mem := rfl
@[simp] theorem State.setDt_disp (s : State) (b : Byte) : (s.setDt b).disp = s.disp := rfl
@[simp] theorem State.setDt_rs (s : State) (b : Byte) : (s.setDt b).rs = s.rs := rfl
@[simp] theorem State.setDt_kbPrev (s : State) (b : Byte) : (s.setDt b).kbPrev = s.kbPrev := rfl
@[simp] theorem State.setDt_report (s : State) (b : Byte) : (s.setDt b).report = s.report := rfl
@[simp] theorem State.setDt_loadError (s : State) (b : Byte) : (s.setDt b).loadError = s.loadError := rfl
@[simp] theorem State.setDt_keys (s : State) (b : Byte) : (s.setDt b).keys = s.keys := rfl
@[simp] theorem State.setDt_randIn (s : State) (b : Byte) : (s.setDt b).randIn = s.randIn := rfl
@[simp] theorem State.setDt_host (s : State) (b : Byte) : (s.setDt b).host = s.host := rfl
@[simp] theorem State.setDt_draws (s : State) (b : Byte) : (s.setDt b).draws = s.draws := rfl
@[simp] theorem State.setDt_params (s : State) (b : Byte) : (s.setDt b).params = s.params := rfl

@[simp] theorem State.setSt_reg (s : State) (b : Byte) (q : RegIdx) : (s.setSt b).reg q = s.reg q := rfl
@[simp] theorem State.setSt_v (s : State) (b : Byte) : (s.setSt b).v = s.v := rfl
@[simp] theorem State.setSt_i (s : State) (b : Byte) : (s.setSt b).i = s.i := rfl
@[simp] theorem State.setSt_pc (s : State) (b : Byte) : (s.setSt b).pc = s.pc := rfl
@[simp] theorem State.setSt_sp (s : State) (b : Byte) : (s.setSt b).sp = s.sp := rfl
@[simp] theorem State.setSt_stack (s : State) (b : Byte) : (s.setSt b).stack = s.stack := rfl
@[simp] theorem State.setSt_dt (s : State) (b : Byte) : (s.setSt b).dt = s.dt := rfl
@[simp] theorem State.setSt_st (s : State) (b : Byte) : (s.setSt b).st = b := rfl
@[simp] theorem State.setSt_mem (s : State) (b : Byte) : (s.setSt b).mem = s.mem := rfl
@[simp] theorem State.setSt_disp (s : State) (b : Byte) : (s.setSt b).disp = s.disp := rfl
@[simp] theorem State.setSt_rs (s : State) (b : Byte) : (s.setSt b).rs = s.rs := rfl
@[simp] theorem State.setSt_kbPrev (s : State) (b : Byte) : (s.setSt b).kbPrev = s.kbPrev := rfl
@[simp] theorem State.setSt_report (s : State) (b : Byte) : (s.setSt b).report = s.report := rfl
@[simp] theorem State.setSt_loadError (s : State) (b : Byte) : (s.setSt b).loadError = s.loadError := rfl
@[simp] theorem State.setSt_keys (s : State) (b : Byte) : (s.setSt b).keys = s.keys := rfl
@[simp] theorem State.setSt_randIn (s : State) (b : Byte) : (s.setSt b).randIn = s.randIn := rfl
@[simp] theorem State.setSt_host (s : State) (b : Byte) : (s.setSt b).host = s.host := rfl
@[simp] theorem State.setSt_draws (s : State) (b : Byte) : (s.setSt b).draws = s.draws := rfl
@[simp] theorem State.setSt_params (s : State) (b : Byte) : (s.setSt b).params = s.params := rfl

@[simp] theorem State.setMem_reg (s : State) (m : Memory) (q : RegIdx) : (s.setMem m).reg q = s.reg q := rfl
@[simp] theorem State.setMem_v (s : State) (m : Memory) : (s.setMem m).v = s.v := rfl
@[simp] theorem State.setMem_i (s : State) (m : Memory) : (s.setMem m).i = s.i := rfl
@[simp] theorem State.setMem_pc (s : State) (m : Memory) : (s.setMem m).pc = s.pc := rfl
@[simp] theorem State.setMem_sp (s : State) (m : Memory) : (s.setMem m).sp = s.sp := rfl
@[simp] theorem State.setMem_stack (s : State) (m : Memory) : (s.setMem m).stack = s.stack := rfl
@[simp] theorem State.setMem_dt (s : State) (m : Memory) : (s.setMem m).dt = s.dt := rfl
@[simp] theorem State.setMem_st (s : State) (m : Memory) : (s.setMem m).st = s.st := rfl
@[simp] theorem State.setMem_mem (s : State) (m : Memory) : (s.setMem m).mem = m := rfl
@[simp] theorem State.setMem_disp (s : State) (m : Memory) : (s.setMem m).disp = s.disp := rfl
@[simp] theorem State.setMem_rs (s : State) (m : Memory) : (s.setMem m).rs = s.rs := rfl
@[simp] theorem State.setMem_kbPrev (s : State) (m : Memory) : (s.setMem m).kbPrev = s.kbPrev := rfl
@[simp] theorem State.setMem_report (s : State) (m : Memory) : (s.setMem m).report = s.report := rfl
@[simp] theorem State.setMem_loadError (s : State) (m : Memory) : (s.setMem m).loadError = s.loadError := rfl
@[simp] theorem State.setMem_keys (s : State) (m : Memory) : (s.setMem m).keys = s.keys := rfl
@[simp] theorem State.setMem_randIn (s : State) (m : Memory) : (s.setMem m).randIn = s.randIn := rfl
@[simp] theorem State.setMem_host (s : State) (m : Memory) : (s.setMem m).host = s.host := rfl
@[simp] theorem State.setMem_draws (s : State) (m : Memory) : (s.setMem m).draws = s.draws := rfl
@[simp] theorem State.setMem_params (s : State) (m : Memory) : (s.setMem m).params = s.params := rfl

@[simp] theorem State.setDisp_reg (s : State) (d : Display) (q : RegIdx) : (s.setDisp d).reg q = s.reg q := rfl
@[simp] theorem State.setDisp_v (s : State) (d : Display) : (s.setDisp d).v = s.v := rfl
@[simp] theorem State.setDisp_i (s : State) (d : Display) : (s.setDisp d).i = s.i := rfl
@[simp] theorem State.setDisp_pc (s : State) (d : Display) : (s.setDisp d).pc = s.pc := rfl
@[simp] theorem State.setDisp_sp (s : State) (d : Display) : (s.setDisp d).sp = s.sp := rfl
@[simp] theorem State.setDisp_stack (s : State) (d : Display) : (s.setDisp d).stack = s.stack := rfl
@[simp] theorem State.setDisp_dt (s : State) (d : Display) : (s.setDisp d).dt = s.dt := rfl
@[simp] theorem State.setDisp_st (s : State) (d : Display) : (s.setDisp d).st = s.st := rfl
@[simp] theorem State.setDisp_mem (s : State) (d : Display) : (s.setDisp d).mem = s.mem := rfl
@[simp] theorem State.setDisp_disp (s : State) (d : Display) : (s.setDisp d).disp = d := rfl
@[simp] theorem State.setDisp_rs (s : State) (d : Display) : (s.setDisp d).rs = s.rs := rfl
@[simp] theorem State.setDisp_kbPrev (s : State) (d : Display) : (s.setDisp d).kbPrev = s.kbPrev := rfl
@[simp] theorem State.setDisp_report (s : State) (d : Display) : (s.setDisp d).report = s.report := rfl
@[simp] theorem State.setDisp_loadError (s : State) (d : Display) : (s.setDisp d).loadError = s.loadError := rfl
@[simp] theorem State.setDisp_keys (s : State) (d : Display) : (s.setDisp d).keys = s.keys := rfl
@[simp] theorem State.setDisp_randIn (s : State) (d : Display) : (s.setDisp d).randIn = s.randIn := rfl
@[simp] theorem State.setDisp_host (s : State) (d : Display) : (s.setDisp d).host = s.host := rfl
@[simp] theorem State.setDisp_draws (s : State) (d : Display) : (s.setDisp d).draws = s.draws := rfl
@[simp] theorem State.setDisp_params (s : State) (d : Display) : (s.setDisp d).params = s.params := rfl

@[simp] theorem State.setRs_reg (s : State) (r : RunState) (q : RegIdx) : (s.setRs r).reg q = s.reg q := rfl
@[simp] theorem State.setRs_v (s : State) (r : RunState) : (s.setRs r).v = s.v := rfl
@[simp] theorem State.setRs_i (s : State) (r : RunState) : (s.setRs r).i = s.i := rfl
@[simp] theorem State.setRs_pc (s : State) (r : RunState) : (s.setRs r).pc = s.pc := rfl
@[simp] theorem State.setRs_sp (s : State) (r : RunState) : (s.setRs r).sp = s.sp := rfl
@[simp] theorem State.setRs_stack (s : State) (r : RunState) : (s.setRs r).stack = s.stack := rfl
@[simp] theorem State.setRs_dt (s : State) (r : RunState) : (s.setRs r).dt = s.dt := rfl
@[simp] theorem State.setRs_st (s : State) (r : RunState) : (s.setRs r).st = s.st := rfl
@[simp] theorem State.setRs_mem (s : State) (r : RunState) : (s.setRs r).mem = s.mem := rfl
@[simp] theorem State.setRs_disp (s : State) (r : RunState) : (s.setRs r).disp = s.disp := rfl
@[simp] theorem State.setRs_rs (s : State) (r : RunState) : (s.setRs r).rs = r := rfl
@[simp] theorem State.setRs_kbPrev (s : State) (r : RunState) : (s.setRs r).kbPrev = s.kbPrev := rfl
@[simp] theorem State.setRs_report (s : State) (r : RunState) : (s.setRs r).report = s.report := rfl
@[simp] theorem State.setRs_loadError (s : State) (r : RunState) : (s.setRs r).loadError = s.loadError := rfl
@[simp] theorem State.setRs_keys (s : State) (r : RunState) : (s.setRs r).keys = s.keys := rfl
@[simp] theorem State.setRs_randIn (s : State) (r : RunState) : (s.setRs r).randIn = s.randIn := rfl
@[simp] theorem State.setRs_host (s : State) (r : RunState) : (s.setRs r).host = s.host := rfl
@[simp] theorem State.setRs_draws (s : State) (r : RunState) : (s.setRs r).draws = s.draws := rfl
@[simp] theorem State.setRs_params (s : State) (r : RunState) : (s.setRs r).params = s.params := rfl

@[simp] theorem State.setKbPrev_reg (s : State) (k : Keys) (q : RegIdx) : (s.setKbPrev k).reg q = s.reg q := rfl
@[simp] theorem State.setKbPrev_v (s : State) (k : Keys) : (s.setKbPrev k).v = s.v := rfl
@[simp] theorem State.setKbPrev_i (s : State) (k : Keys) : (s.setKbPrev k).i = s.i := rfl
@[simp] theorem State.setKbPrev_pc (s : State) (k : Keys) : (s.setKbPrev k).pc = s.pc := rfl
@[simp] theorem State.setKbPrev_sp (s : State) (k : Keys) : (s.setKbPrev k).sp = s.sp := rfl
@[simp] theorem State.setKbPrev_stack (s : State) (k : Keys) : (s.setKbPrev k).stack = s.stack := rfl
@[simp] theorem State.setKbPrev_dt (s : State) (k : Keys) : (s.setKbPrev k).dt = s.dt := rfl
@[simp] theorem State.setKbPrev_st (s : State) (k : Keys) : (s.setKbPrev k).st = s.st := rfl
@[simp] theorem State.setKbPrev_mem (s : State) (k : Keys) : (s.setKbPrev k).mem = s.mem := rfl
@[simp] theorem State.setKbPrev_disp (s : State) (k : Keys) : (s.setKbPrev k).disp = s.disp := rfl
@[simp] theorem State.setKbPrev_rs (s : State) (k : Keys) : (s.setKbPrev k).rs = s.rs := rfl
@[simp] theorem State.setKbPrev_kbPrev (s : State) (k : Keys) : (s.setKbPrev k).kbPrev = k := rfl
@[simp] theorem State.setKbPrev_report (s : State) (k : Keys) : (s.setKbPrev k).report = s.report := rfl
@[simp] theorem State.setKbPrev_loadError (s : State) (k : Keys) : (s.setKbPrev k).loadError = s.loadError := rfl
@[simp] theorem State.setKbPrev_keys (s : State) (k : Keys) : (s.setKbPrev k).keys = s.keys := rfl
@[simp] theorem State.setKbPrev_randIn (s : State) (k : Keys) : (s.setKbPrev k).randIn = s.randIn := rfl
@[simp] theorem State.setKbPrev_host (s : State) (k : Keys) : (s.setKbPrev k).host = s.host := rfl
@[simp] theorem State.setKbPrev_draws (s : State) (k : Keys) : (s.setKbPrev k).draws = s.draws := rfl
@[simp] theorem State.setKbPrev_params (s : State) (k : Keys) : (s.setKbPrev k).params = s.params := rfl

@[simp] theorem State.setReport_reg (s : State) (r : Option InvalidReport) (q : RegIdx) : (s.setReport r).reg q = s.reg q := rfl
@[simp] theorem State.setReport_v (s : State) (r : Option InvalidReport) : (s.setReport r).v = s.v := rfl
@[simp] theorem State.setReport_i (s : State) (r : Option InvalidReport) : (s.setReport r).i = s.i := rfl
@[simp] theorem State.setReport_pc (s : State) (r : Option InvalidReport) : (s.setReport r).pc = s.pc := rfl
@[simp] theorem State.setReport_sp (s : State) (r : Option InvalidReport) : (s.setReport r).sp = s.sp := rfl
@[simp] theorem State.setReport_stack (s : State) (r : Option InvalidReport) : (s.setReport r).stack = s.stack := rfl
@[simp] theorem State.setReport_dt (s : State) (r : Option InvalidReport) : (s.setReport r).dt = s.dt := rfl
@[simp] theorem State.setReport_st (s : State) (r : Option InvalidReport) : (s.setReport r).st = s.st := rfl
@[simp] theorem State.setReport_mem (s : State) (r : Option InvalidReport) : (s.setReport r).mem = s.mem := rfl
@[simp] theorem State.setReport_disp (s : State) (r : Option InvalidReport) : (s.setReport r).disp = s.disp := rfl
@[simp] theorem State.setReport_rs (s : State) (r : Option InvalidReport) : (s.setReport r).rs = s.rs := rfl
@[simp] theorem State.setReport_kbPrev (s : State) (r : Option InvalidReport) : (s.setReport r).kbPrev = s.kbPrev := rfl
@[simp] theorem State.setReport_report (s : State) (r : Option InvalidReport) : (s.setReport r).report = r := rfl
@[simp] theorem State.setReport_loadError (s : State) (r : Option InvalidReport) : (s.setReport r).loadError = s.loadError := rfl
@[simp] theorem State.setReport_keys (s : State) (r : Option InvalidReport) : (s.setReport r).keys = s.keys := rfl
@[simp] theorem State.setReport_randIn (s : State) (r : Option InvalidReport) : (s.setReport r).randIn = s.randIn := rfl
@[simp] theorem State.setReport_host (s : State) (r : Option InvalidReport) : (s.setReport r).host = s.host := rfl
@[simp] theorem State.setReport_draws (s : State) (r : Option InvalidReport) : (s.setReport r).draws = s.draws := rfl
@[simp] theorem State.setReport_params (s : State) (r : Option InvalidReport) : (s.setReport r).params = s.params := rfl

@[simp] theorem State.setStack_reg (s : State) (p : Fin 17) (w : Vector Word 16) (q : RegIdx) : (s.setStack p w).reg q = s.reg q := rfl
@[simp] theorem State.setStack_v (s : State) (p : Fin 17) (w : Vector Word 16) : (s.setStack p w).v = s.v := rfl
@[simp] theorem State.setStack_i (s : State) (p : Fin 17) (w : Vector Word 16) : (s.setStack p w).i = s.i := rfl
@[simp] theorem State.setStack_pc (s : State) (p : Fin 17) (w : Vector Word 16) : (s.setStack p w).pc = s.pc := rfl
@[simp] theorem State.setStack_sp (s : State) (p : Fin 17) (w : Vector Word 16) : (s.setStack p w).sp = p := rfl
@[simp] theorem State.setStack_stack (s : State) (p : Fin 17) (w : Vector Word 16) : (s.setStack p w).stack = w := rfl
@[simp] theorem State.setStack_dt (s : State) (p : Fin 17) (w : Vector Word 16) : (s.setStack p w).dt = s.dt := rfl
@[simp] theorem State.setStack_st (s : State) (p : Fin 17) (w : Vector Word 16) : (s.setStack p w).st = s.st := rfl
@[simp] theorem State.setStack_mem (s : State) (p : Fin 17) (w : Vector Word 16) : (s.setStack p w).mem = s.mem := rfl
@[simp] theorem State.setStack_disp (s : State) (p : Fin 17) (w : Vector Word 16) : (s.setStack p w).disp = s.disp := rfl
@[simp] theorem State.setStack_rs (s : State) (p : Fin 17) (w : Vector Word 16) : (s.setStack p w).rs = s.rs := rfl
@[simp] theorem State.setStack_kbPrev (s : State) (p : Fin 17) (w : Vector Word 16) : (s.setStack p w).kbPrev = s.kbPrev := rfl
@[simp] theorem State.setStack_report (s : State) (p : Fin 17) (w : Vector Word 16) : (s.setStack p w).report = s.report := rfl
@[simp] theorem State.setStack_loadError (s : State) (p : Fin 17) (w : Vector Word 16) : (s.setStack p w).loadError = s.loadError := rfl
@[simp] theorem State.setStack_keys (s : State) (p : Fin 17) (w : Vector Word 16) : (s.setStack p w).keys = s.keys := rfl
@[simp] theorem State.setStack_randIn (s : State) (p : Fin 17) (w : Vector Word 16) : (s.setStack p w).randIn = s.randIn := rfl
@[simp] theorem State.setStack_host (s : State) (p : Fin 17) (w : Vector Word 16) : (s.setStack p w).host = s.host := rfl
@[simp] theorem State.setStack_draws (s : State) (p : Fin 17) (w : Vector Word 16) : (s.setStack p w).draws = s.draws := rfl
@[simp] theorem State.setStack_params (s : State) (p : Fin 17) (w : Vector Word 16) : (s.setStack p w).params = s.params := rfl

@[simp] theorem State.setDraws_reg (s : State) (r : List Byte) (n : Nat) (q : RegIdx) : (s.setDraws r n).reg q = s.reg q := rfl
@[simp] theorem State.setDraws_v (s : State) (r : List Byte) (n : Nat) : (s.setDraws r n).v = s.v := rfl
@[simp] theorem State.setDraws_i (s : State) (r : List Byte) (n : Nat) : (s.setDraws r n).i = s.i := rfl
@[simp] theorem State.setDraws_pc (s : State) (r : List Byte) (n : Nat) : (s.setDraws r n).pc = s.pc := rfl
@[simp] theorem State.setDraws_sp (s : State) (r : List Byte) (n : Nat) : (s.setDraws r n).sp = s.sp := rfl
@[simp] theorem State.setDraws_stack (s : State) (r : List Byte) (n : Nat) : (s.setDraws r n).stack = s.stack := rfl
@[simp] theorem State.setDraws_dt (s : State) (r : List Byte) (n : Nat) : (s.setDraws r n).dt = s.dt := rfl
@[simp] theorem State.setDraws_st (s : State) (r : List Byte) (n : Nat) : (s.setDraws r n).st = s.st := rfl
@[simp] theorem State.setDraws_mem (s : State) (r : List Byte) (n : Nat) : (s.setDraws r n).mem = s.mem := rfl
@[simp] theorem State.setDraws_disp (s : State) (r : List Byte) (n : Nat) : (s.setDraws r n).disp = s.disp := rfl
@[simp] theorem State.setDraws_rs (s : State) (r : List Byte) (n : Nat) : (s.setDraws r n).rs = s.rs := rfl
@[simp] theorem State.setDraws_kbPrev (s : State) (r : List Byte) (n : Nat) : (s.setDraws r n).kbPrev = s.kbPrev := rfl
@[simp] theorem State.setDraws_report (s : State) (r : List Byte) (n : Nat) : (s.setDraws r n).report = s.report := rfl
@[simp] theorem State.setDraws_loadError (s : State) (r : List Byte) (n : Nat) : (s.setDraws r n).loadError = s.loadError := rfl
@[simp] theorem State.setDraws_keys (s : State) (r : List Byte) (n : Nat) : (s.setDraws r n).keys = s.keys := rfl
@[simp] theorem State.setDraws_randIn (s : State) (r : List Byte) (n : Nat) : (s.setDraws r n).randIn = r := rfl
@[simp] theorem State.setDraws_host (s : State) (r : List Byte) (n : Nat) : (s.setDraws r n).host = s.host := rfl
@[simp] theorem State.setDraws_draws (s : State) (r : List Byte) (n : Nat) : (s.setDraws r n).draws = n := rfl
@[simp] theorem State.setDraws_params (s : State) (r : List Byte) (n : Nat) : (s.setDraws r n).params = s.params := rfl

@[simp] theorem State.advance_reg (s : State) (q : RegIdx) : s.advance.reg q = s.reg q := rfl
@[simp] theorem State.advance_v (s : State) : s.advance.v = s.v := rfl
@[simp] theorem State.advance_i (s : State) : s.advance.i = s.i := rfl
@[simp] theorem State.advance_pc (s : State) : s.advance.pc = s.pc + 2 := rfl
@[simp] theorem State.advance_sp (s : State) : s.advance.sp = s.sp := rfl
@[simp] theorem State.advance_stack (s : State) : s.advance.stack = s.stack := rfl
@[simp] theorem State.advance_dt (s : State) : s.advance.dt = s.dt := rfl
@[simp] theorem State.advance_st (s : State) : s.advance.st = s.st := rfl
@[simp] theorem State.advance_mem (s : State) : s.advance.mem = s.mem := rfl
@[simp] theorem State.advance_disp (s : State) : s.advance.disp = s.disp := rfl
@[simp] theorem State.advance_rs (s : State) : s.advance.rs = s.rs := rfl
@[simp] theorem State.advance_kbPrev (s : State) : s.advance.kbPrev = s.kbPrev := rfl
@[simp] theorem State.advance_report (s : State) : s.advance.report = s.report := rfl
@[simp] theorem State.advance_loadError (s : State) : s.advance.loadError = s.loadError := rfl
@[simp] theorem State.advance_keys (s : State) : s.advance.keys = s.keys := rfl
@[simp] theorem State.advance_randIn (s : State) : s.advance.randIn = s.randIn := rfl
@[simp] theorem State.advance_host (s : State) : s.advance.host = s.host := rfl
@[simp] theorem State.advance_draws (s : State) : s.advance.draws = s.draws := rfl
@[simp] theorem State.advance_params (s : State) : s.advance.params = s.params := rfl

@[simp] theorem State.skipIf_reg (s : State) (c : Bool) (q : RegIdx) : (s.skipIf c).reg q = s.reg q := rfl
@[simp] theorem State.skipIf_v (s : State) (c : Bool) : (s.skipIf c).v = s.v := rfl
@[simp] theorem State.skipIf_i (s : State) (c : Bool) : (s.skipIf c).i = s.i := rfl
@[simp] theorem State.skipIf_pc (s : State) (c : Bool) : (s.skipIf c).pc = s.pc + if c then 4 else 2 := rfl
@[simp] theorem State.skipIf_sp (s : State) (c : Bool) : (s.skipIf c).sp = s.sp := rfl
@[simp] theorem State.skipIf_stack (s : State) (c : Bool) : (s.skipIf c).stack = s.stack := rfl
@[simp] theorem State.skipIf_dt (s : State) (c : Bool) : (s.skipIf c).dt = s.dt := rfl
@[simp] theorem State.skipIf_st (s : State) (c : Bool) : (s.skipIf c).st = s.st := rfl
@[simp] theorem State.skipIf_mem (s : State) (c : Bool) : (s.skipIf c).mem = s.mem := rfl
@[simp] theorem State.skipIf_disp (s : State) (c : Bool) : (s.skipIf c).disp = s.disp := rfl
@[simp] theorem State.skipIf_rs (s : State) (c : Bool) : (s.skipIf c).rs = s.rs := rfl
@[simp] theorem State.skipIf_kbPrev (s : State) (c : Bool) : (s.skipIf c).kbPrev = s.kbPrev := rfl
@[simp] theorem State.skipIf_report (s : State) (c : Bool) : (s.skipIf c).report = s.report := rfl
@[simp] theorem State.skipIf_loadError (s : State) (c : Bool) : (s.skipIf c).loadError = s.loadError := rfl
@[simp] theorem State.skipIf_keys (s : State) (c : Bool) : (s.skipIf c).keys = s.keys := rfl
@[simp] theorem State.skipIf_randIn (s : State) (c : Bool) : (s.skipIf c).randIn = s.randIn := rfl
@[simp] theorem State.skipIf_host (s : State) (c : Bool) : (s.skipIf c).host = s.host := rfl
@[simp] theorem State.skipIf_draws (s : State) (c : Bool) : (s.skipIf c).draws = s.draws := rfl
@[simp] theorem State.skipIf_params (s : State) (c : Bool) : (s.skipIf c).params = s.params := rfl

@[simp] theorem State.writeResult_v (s : State) (x : RegIdx) (b : Byte) : (s.writeResult x b).v = s.v.set x.val b := rfl
@[simp] theorem State.writeResult_i (s : State) (x : RegIdx) (b : Byte) : (s.writeResult x b).i = s.i := rfl
@[simp] theorem State.writeResult_pc (s : State) (x : RegIdx) (b : Byte) : (s.writeResult x b).pc = s.pc + 2 := rfl
@[simp] theorem State.writeResult_sp (s : State) (x : RegIdx) (b : Byte) : (s.writeResult x b).sp = s.sp := rfl
@[simp] theorem State.writeResult_stack (s : State) (x : RegIdx) (b : Byte) : (s.writeResult x b).stack = s.stack := rfl
@[simp] theorem State.writeResult_dt (s : State) (x : RegIdx) (b : Byte) : (s.writeResult x b).dt = s.dt := rfl
@[simp] theorem State.writeResult_st (s : State) (x : RegIdx) (b : Byte) : (s.writeResult x b).st = s.st := rfl
@[simp] theorem State.writeResult_mem (s : State) (x : RegIdx) (b : Byte) : (s.writeResult x b).mem = s.mem := rfl
@[simp] theorem State.writeResult_disp (s : State) (x : RegIdx) (b : Byte) : (s.writeResult x b).disp = s.disp := rfl
@[simp] theorem State.writeResult_rs (s : State) (x : RegIdx) (b : Byte) : (s.writeResult x b).rs = s.rs := rfl
@[simp] theorem State.writeResult_kbPrev (s : State) (x : RegIdx) (b : Byte) : (s.writeResult x b).kbPrev = s.kbPrev := rfl
@[simp] theorem State.writeResult_report (s : State) (x : RegIdx) (b : Byte) : (s.writeResult x b).report = s.report := rfl
@[simp] theorem State.writeResult_loadError (s : State) (x : RegIdx) (b : Byte) : (s.writeResult x b).loadError = s.loadError := rfl
@[simp] theorem State.writeResult_keys (s : State) (x : RegIdx) (b : Byte) : (s.writeResult x b).keys = s.keys := rfl
@[simp] theorem State.writeResult_randIn (s : State) (x : RegIdx) (b : Byte) : (s.writeResult x b).randIn = s.randIn := rfl
@[simp] theorem State.writeResult_host (s : State) (x : RegIdx) (b : Byte) : (s.writeResult x b).host = s.host := rfl
@[simp] theorem State.writeResult_draws (s : State) (x : RegIdx) (b : Byte) : (s.writeResult x b).draws = s.draws := rfl
@[simp] theorem State.writeResult_params (s : State) (x : RegIdx) (b : Byte) : (s.writeResult x b).params = s.params := rfl

@[simp] theorem State.writeWithFlag_v (s : State) (x : RegIdx) (b f : Byte) : (s.writeWithFlag x b f).v = (s.v.set x.val b).set 15 f := rfl
@[simp] theorem State.writeWithFlag_i (s : State) (x : RegIdx) (b f : Byte) : (s.writeWithFlag x b f).i = s.i := rfl
@[simp] theorem State.writeWithFlag_pc (s : State) (x : RegIdx) (b f : Byte) : (s.writeWithFlag x b f).pc = s.pc + 2 := rfl
@[simp] theorem State.writeWithFlag_sp (s : State) (x : RegIdx) (b f : Byte) : (s.writeWithFlag x b f).sp = s.sp := rfl
@[simp] theorem State.writeWithFlag_stack (s : State) (x : RegIdx) (b f : Byte) : (s.writeWithFlag x b f).stack = s.stack := rfl
@[simp] theorem State.writeWithFlag_dt (s : State) (x : RegIdx) (b f : Byte) : (s.writeWithFlag x b f).dt = s.dt := rfl
@[simp] theorem State.writeWithFlag_st (s : State) (x : RegIdx) (b f : Byte) : (s.writeWithFlag x b f).st = s.st := rfl
@[simp] theorem State.writeWithFlag_mem (s : State) (x : RegIdx) (b f : Byte) : (s.writeWithFlag x b f).mem = s.mem := rfl
@[simp] theorem State.writeWithFlag_disp (s : State) (x : RegIdx) (b f : Byte) : (s.writeWithFlag x b f).disp = s.disp := rfl
@[simp] theorem State.writeWithFlag_rs (s : State) (x : RegIdx) (b f : Byte) : (s.writeWithFlag x b f).rs = s.rs := rfl
@[simp] theorem State.writeWithFlag_kbPrev (s : State) (x : RegIdx) (b f : Byte) : (s.writeWithFlag x b f).kbPrev = s.kbPrev := rfl
@[simp] theorem State.writeWithFlag_report (s : State) (x : RegIdx) (b f : Byte) : (s.writeWithFlag x b f).report = s.report := rfl
@[simp] theorem State.writeWithFlag_loadError (s : State) (x : RegIdx) (b f : Byte) : (s.writeWithFlag x b f).loadError = s.loadError := rfl
@[simp] theorem State.writeWithFlag_keys (s : State) (x : RegIdx) (b f : Byte) : (s.writeWithFlag x b f).keys = s.keys := rfl
@[simp] theorem State.writeWithFlag_randIn (s : State) (x : RegIdx) (b f : Byte) : (s.writeWithFlag x b f).randIn = s.randIn := rfl
@[simp] theorem State.writeWithFlag_host (s : State) (x : RegIdx) (b f : Byte) : (s.writeWithFlag x b f).host = s.host := rfl
@[simp] theorem State.writeWithFlag_draws (s : State) (x : RegIdx) (b f : Byte) : (s.writeWithFlag x b f).draws = s.draws := rfl
@[simp] theorem State.writeWithFlag_params (s : State) (x : RegIdx) (b f : Byte) : (s.writeWithFlag x b f).params = s.params := rfl

end Sys2Proof.Machine
end

