-- ==== Sys2Proof/Laws/Ops.lean ====
section
/-! SUPPORT. What each shared operation can do: the call stack, the fetch, the draws, the key choice, the operand forms,
the skip and the fatal fault. -/

namespace Sys2Proof.Machine

/-- A push answers exactly when SP < 16, and then what it writes (10_state.md R30). -/
theorem State.push_of_lt {s : State} (h : s.sp.val < 16) (a : Word) :
    s.push a = some (s.setStack ⟨s.sp.val + 1, by omega⟩ (s.stack.set s.sp.val a)) := dif_pos h

theorem State.push_full {s : State} (h : ¬ s.sp.val < 16) (a : Word) : s.push a = none := dif_neg h

/-- A pop answers exactly when SP > 0, and then what it reads (10_state.md R30). -/
theorem State.pop_of_pos {s : State} (h : 0 < s.sp.val) :
    s.pop = some (s.stack[s.sp.val - 1]'(by omega), s.setStack ⟨s.sp.val - 1, by omega⟩ s.stack) := dif_pos h

theorem State.pop_empty {s : State} (h : ¬ 0 < s.sp.val) : s.pop = none := dif_neg h

/-- A draw changes the Random Source's bytes and the count of free values, nothing else. -/
theorem State.drawRand_state (s : State) : ∃ r n, s.drawRand.2 = s.setDraws r n := by
  unfold State.drawRand
  split
  · exact ⟨_, _, rfl⟩
  · exact ⟨_, _, rfl⟩

theorem State.drawRand_injected {s : State} {b : Byte} {bs : List Byte} (h : s.randIn = b :: bs) :
    s.drawRand = (b, s.setDraws bs s.draws) := by
  simp only [State.drawRand, h]

theorem State.drawRand_free {s : State} (h : s.randIn = []) :
    s.drawRand = (Config.randByte s.draws, s.setDraws [] (s.draws + 1)) := by
  simp only [State.drawRand, h]

/-- KEY_CHOICE is one of the newly pressed keys (45_timers_keys.md R227). -/
theorem chooseKey_mem (d : Nat) (k : KeyIdx) (ks : List KeyIdx) : chooseKey d k ks ∈ k :: ks := by
  cases ks with
  | nil => simp [chooseKey]
  | cons k' ks =>
    have h : Config.keyChoice d % (ks.length + 2) < (k :: k' :: ks).length := Nat.mod_lt _ (by omega)
    simp only [chooseKey]
    rw [List.getD_eq_getElem _ _ h]
    exact List.getElem_mem h

theorem State.mem_newKeys (s : State) (k : KeyIdx) : k ∈ s.newKeys ↔ s.newlyPressed k = true := by
  simp [State.newKeys]

/-- FX0A's completion: none when no key is newly pressed, else one of them is stored (45_timers_keys.md R225, R226). -/
theorem State.takeKey_cases (s : State) (x : RegIdx) :
    (s.takeKey x = none ∧ ∀ k, s.newlyPressed k = false) ∨
    (∃ k, s.newlyPressed k = true ∧
      s.takeKey x = some ((s.setDraws s.randIn (s.draws + 1)).writeResult x (BitVec.ofNat 8 k.val))) := by
  unfold State.takeKey
  split
  · rename_i h
    refine .inl ⟨rfl, fun k => ?_⟩
    have := (s.mem_newKeys k).not
    simpa [h] using this
  · rename_i k ks h
    refine .inr ⟨chooseKey s.draws k ks, ?_, rfl⟩
    rw [← s.mem_newKeys, h]
    exact chooseKey_mem _ _ _

/-- The fetch answers a word exactly for an even PC of at most 0xFFE (20_memory.md R64). -/
theorem State.fetch_ok_iff (s : State) (w : Word) : s.fetch = .ok w ↔
    s.pc.toNat + 1 ≤ 0xFFF ∧ s.pc.toNat % 2 = 0 ∧
      w = wordOfBytes (s.mem.read s.pc.toNat) (s.mem.read (s.pc.toNat + 1)) := by
  unfold State.fetch
  split
  · constructor
    · intro h; cases h
    · intro h; omega
  · split
    · constructor
      · intro h; cases h
      · intro h; omega
    · constructor
      · intro h; cases h; exact ⟨by omega, by omega, rfl⟩
      · intro h; rw [h.2.2]

/-- The fetch's two faults (20_memory.md R64). -/
theorem State.fetch_error_iff (s : State) (c : Fault) : s.fetch = .error c ↔
    (s.pc.toNat + 1 > 0xFFF ∧ c = .fetchOutOfRange) ∨
    (s.pc.toNat + 1 ≤ 0xFFF ∧ s.pc.toNat % 2 = 1 ∧ c = .misalignedFetch) := by
  unfold State.fetch
  split
  · constructor
    · intro h; cases h; exact .inl ⟨by omega, rfl⟩
    · rintro (h | h)
      · rw [h.2]
      · omega
  · split
    · constructor
      · intro h; cases h; exact .inr ⟨by omega, by omega, rfl⟩
      · rintro (h | h)
        · omega
        · rw [h.2.2]
    · constructor
      · intro h; cases h
      · rintro (h | h) <;> omega

/-- The key V[X] names. -/
theorem State.keyOperand_some_iff (s : State) (x : RegIdx) (k : KeyIdx) :
    s.keyOperand x = some k ↔ (s.reg x).toNat = k.val := by
  unfold State.keyOperand
  split
  · simp [Fin.ext_iff]
  · constructor
    · intro h; cases h
    · intro h; have := k.isLt; omega

theorem State.keyOperand_none_iff (s : State) (x : RegIdx) : s.keyOperand x = none ↔ (s.reg x).toNat > 0xF := by
  unfold State.keyOperand
  split
  · constructor
    · intro h; cases h
    · intro h; omega
  · exact ⟨fun _ => by omega, fun _ => rfl⟩

/-- A skip leaves PC + 4 or PC + 2. -/
theorem State.skipIf_target (s : State) (c : Bool) : (s.skipIf c).pc = if c = true then s.pc + 4 else s.pc + 2 := by
  cases c <;> rfl

/-- FX29's address is exact: it never exceeds 0x54B (43_index_memory.md R182). -/
theorem glyphAddress_toNat (b : Byte) : (glyphAddress b).toNat = 0x050 + 5 * b.toNat := by
  have h := b.isLt
  have h5 : BitVec.toNat (5 : Word) = 5 := rfl
  simp only [glyphAddress, fontBase, zext16, BitVec.toNat_add, BitVec.toNat_mul, BitVec.toNat_setWidth,
    BitVec.toNat_ofNat, h5]
  omega

/-- BNNN's target is exact: it never exceeds 0x10FE (41_control_flow.md R137). -/
theorem offsetTarget_toNat (nnn : Addr12) (b : Byte) : (offsetTarget nnn b).toNat = nnn.toNat + b.toNat := by
  have h := b.isLt
  have h' := nnn.isLt
  simp only [offsetTarget, zext16, BitVec.toNat_add, BitVec.toNat_setWidth]
  omega

@[simp] theorem zext16_toNat_addr (nnn : Addr12) : (zext16 nnn).toNat = nnn.toNat := by
  have h := nnn.isLt
  simp only [zext16, BitVec.toNat_setWidth]
  omega

/-- FX55 stores X + 1 bytes, the registers in order (43_index_memory.md R184). -/
@[simp] theorem State.regBlock_length (s : State) (x : RegIdx) : (s.regBlock x).length = x.val + 1 := by
  have := x.isLt
  simp only [State.regBlock, List.length_take, Vector.length_toList]
  omega

theorem State.regBlock_getElem (s : State) (x k : RegIdx) (h : k.val < (s.regBlock x).length) :
    (s.regBlock x)[k.val] = s.reg k := by
  simp only [State.regBlock, List.getElem_take, Vector.getElem_toList]
  rfl

/-- FX65's registers (43_index_memory.md R185). -/
theorem State.loadedBlock_get (s : State) (x k : RegIdx) :
    (s.loadedBlock x).get k = if k ≤ x then s.mem.read (s.i.toNat + k.val) else s.reg k := by
  simp [State.loadedBlock, Vector.get_eq_getElem]

/-- The keyboard sample of a STEP that did not fault. -/
theorem State.sampleKeys_of_not_faulted {s : State} (h : ∀ c, s.rs ≠ .faulted c) : s.sampleKeys = s.setKbPrev s.keys := by
  unfold State.sampleKeys
  split
  · rename_i c hc; exact absurd hc (h c)
  · rfl

theorem State.sampleKeys_of_faulted {s : State} {c : Fault} (h : s.rs = .faulted c) : s.sampleKeys = s := by
  simp only [State.sampleKeys, h]

/-- What the end of a STEP may change: KB_PREV. -/
theorem State.sampleKeys_cases (s : State) : s.sampleKeys = s ∨ s.sampleKeys = s.setKbPrev s.keys := by
  unfold State.sampleKeys
  split
  · exact .inl rfl
  · exact .inr rfl

end Sys2Proof.Machine
end

