-- ==== Sys2Proof/Laws/PerInstr.lean ====
section
/-! SUPPORT. For every instruction: its operands fit their fields, and its word lies in its row of the opcode map
(30_encoding.md R91, R95). One lemma per constructor. -/

namespace Sys2Proof.Laws.Encoding

/-- The instruction is well-formed and its word matches its row. -/
def Statement (i : Instr) : Prop := i.wellFormed = true ∧ i.row.matches (encode i) = true

/-- `&&&` distributes over the pieces of a word. -/
theorem or_and (a b m : Word) : (a ||| b) &&& m = (a &&& m) ||| (b &&& m) := by
  apply BitVec.eq_of_getLsbD_eq
  intro k _
  simp [Bool.and_or_distrib_right]

theorem putX_family (x : RegIdx) : putX x &&& 0xF000 = 0 := by revert x; decide
theorem putX_selectN (x : RegIdx) : putX x &&& 0xF00F = 0 := by revert x; decide
theorem putX_selectNN (x : RegIdx) : putX x &&& 0xF0FF = 0 := by revert x; decide
theorem putY_family (y : RegIdx) : putY y &&& 0xF000 = 0 := by revert y; decide
theorem putY_selectN (y : RegIdx) : putY y &&& 0xF00F = 0 := by revert y; decide
theorem putN_family (n : Height) : putN n &&& 0xF000 = 0 := by revert n; decide

/-- A zero-extended value of at most 12 bits has no bit in the family nibble. -/
theorem zext_family {n : Nat} (v : BitVec n) (h : n ≤ 12) : v.setWidth 16 &&& 0xF000 = 0 := by
  apply BitVec.eq_of_getLsbD_eq
  intro k hk
  rw [BitVec.getLsbD_and, show (0 : Word).getLsbD k = false from BitVec.getLsbD_zero]
  by_cases hkn : k < 12
  · have : (0xF000 : Word).getLsbD k = false := by
      interval_cases k <;> rfl
    rw [this, Bool.and_false]
  · rw [BitVec.getLsbD_setWidth, BitVec.getLsbD_of_ge v k (by omega), Bool.and_false, Bool.false_and]

theorem nn_family (nn : Byte) : nn.setWidth 16 &&& 0xF000 = 0 := zext_family nn (by decide)
theorem nnn_family (nnn : Addr12) : nnn.setWidth 16 &&& 0xF000 = 0 := zext_family nnn (by decide)

theorem cls : Statement (.cls) := by
  refine ⟨Instr.wellFormed_all _, ?_⟩
  decide

theorem ret : Statement (.ret) := by
  refine ⟨Instr.wellFormed_all _, ?_⟩
  decide

theorem jp (nnn : Addr12) : Statement (.jp nnn) := by
  refine ⟨Instr.wellFormed_all _, ?_⟩
  simp only [Row.matches, Instr.row, encode, or_and, nnn_family]
  decide

theorem call (nnn : Addr12) : Statement (.call nnn) := by
  refine ⟨Instr.wellFormed_all _, ?_⟩
  simp only [Row.matches, Instr.row, encode, or_and, nnn_family]
  decide

theorem seImm (x : RegIdx) (nn : Byte) : Statement (.seImm x nn) := by
  refine ⟨Instr.wellFormed_all _, ?_⟩
  simp only [Row.matches, Instr.row, encode, or_and, putX_family, nn_family]
  decide

theorem sneImm (x : RegIdx) (nn : Byte) : Statement (.sneImm x nn) := by
  refine ⟨Instr.wellFormed_all _, ?_⟩
  simp only [Row.matches, Instr.row, encode, or_and, putX_family, nn_family]
  decide

theorem seReg (x y : RegIdx) : Statement (.seReg x y) := by
  refine ⟨Instr.wellFormed_all _, ?_⟩
  simp only [Row.matches, Instr.row, encode, or_and, putX_selectN, putY_selectN]
  decide

theorem ldImm (x : RegIdx) (nn : Byte) : Statement (.ldImm x nn) := by
  refine ⟨Instr.wellFormed_all _, ?_⟩
  simp only [Row.matches, Instr.row, encode, or_and, putX_family, nn_family]
  decide

theorem addImm (x : RegIdx) (nn : Byte) : Statement (.addImm x nn) := by
  refine ⟨Instr.wellFormed_all _, ?_⟩
  simp only [Row.matches, Instr.row, encode, or_and, putX_family, nn_family]
  decide

theorem ldReg (x y : RegIdx) : Statement (.ldReg x y) := by
  refine ⟨Instr.wellFormed_all _, ?_⟩
  simp only [Row.matches, Instr.row, encode, or_and, putX_selectN, putY_selectN]
  decide

theorem orReg (x y : RegIdx) : Statement (.orReg x y) := by
  refine ⟨Instr.wellFormed_all _, ?_⟩
  simp only [Row.matches, Instr.row, encode, or_and, putX_selectN, putY_selectN]
  decide

theorem andReg (x y : RegIdx) : Statement (.andReg x y) := by
  refine ⟨Instr.wellFormed_all _, ?_⟩
  simp only [Row.matches, Instr.row, encode, or_and, putX_selectN, putY_selectN]
  decide

theorem xorReg (x y : RegIdx) : Statement (.xorReg x y) := by
  refine ⟨Instr.wellFormed_all _, ?_⟩
  simp only [Row.matches, Instr.row, encode, or_and, putX_selectN, putY_selectN]
  decide

theorem addReg (x y : RegIdx) : Statement (.addReg x y) := by
  refine ⟨Instr.wellFormed_all _, ?_⟩
  simp only [Row.matches, Instr.row, encode, or_and, putX_selectN, putY_selectN]
  decide

theorem subReg (x y : RegIdx) : Statement (.subReg x y) := by
  refine ⟨Instr.wellFormed_all _, ?_⟩
  simp only [Row.matches, Instr.row, encode, or_and, putX_selectN, putY_selectN]
  decide

theorem shr (x y : RegIdx) : Statement (.shr x y) := by
  refine ⟨Instr.wellFormed_all _, ?_⟩
  simp only [Row.matches, Instr.row, encode, or_and, putX_selectN, putY_selectN]
  decide

theorem subn (x y : RegIdx) : Statement (.subn x y) := by
  refine ⟨Instr.wellFormed_all _, ?_⟩
  simp only [Row.matches, Instr.row, encode, or_and, putX_selectN, putY_selectN]
  decide

theorem shl (x y : RegIdx) : Statement (.shl x y) := by
  refine ⟨Instr.wellFormed_all _, ?_⟩
  simp only [Row.matches, Instr.row, encode, or_and, putX_selectN, putY_selectN]
  decide

theorem sneReg (x y : RegIdx) : Statement (.sneReg x y) := by
  refine ⟨Instr.wellFormed_all _, ?_⟩
  simp only [Row.matches, Instr.row, encode, or_and, putX_selectN, putY_selectN]
  decide

theorem ldI (nnn : Addr12) : Statement (.ldI nnn) := by
  refine ⟨Instr.wellFormed_all _, ?_⟩
  simp only [Row.matches, Instr.row, encode, or_and, nnn_family]
  decide

theorem jpV0 (nnn : Addr12) : Statement (.jpV0 nnn) := by
  refine ⟨Instr.wellFormed_all _, ?_⟩
  simp only [Row.matches, Instr.row, encode, or_and, nnn_family]
  decide

theorem rnd (x : RegIdx) (nn : Byte) : Statement (.rnd x nn) := by
  refine ⟨Instr.wellFormed_all _, ?_⟩
  simp only [Row.matches, Instr.row, encode, or_and, putX_family, nn_family]
  decide

theorem drw (x y : RegIdx) (n : Height) : Statement (.drw x y n) := by
  refine ⟨Instr.wellFormed_all _, ?_⟩
  simp only [Row.matches, Instr.row, encode, or_and, putX_family, putY_family, putN_family]
  decide

theorem skp (x : RegIdx) : Statement (.skp x) := by
  refine ⟨Instr.wellFormed_all _, ?_⟩
  simp only [Row.matches, Instr.row, encode, or_and, putX_selectNN]
  decide

theorem sknp (x : RegIdx) : Statement (.sknp x) := by
  refine ⟨Instr.wellFormed_all _, ?_⟩
  simp only [Row.matches, Instr.row, encode, or_and, putX_selectNN]
  decide

theorem ldVxDt (x : RegIdx) : Statement (.ldVxDt x) := by
  refine ⟨Instr.wellFormed_all _, ?_⟩
  simp only [Row.matches, Instr.row, encode, or_and, putX_selectNN]
  decide

theorem ldVxK (x : RegIdx) : Statement (.ldVxK x) := by
  refine ⟨Instr.wellFormed_all _, ?_⟩
  simp only [Row.matches, Instr.row, encode, or_and, putX_selectNN]
  decide

theorem ldDtVx (x : RegIdx) : Statement (.ldDtVx x) := by
  refine ⟨Instr.wellFormed_all _, ?_⟩
  simp only [Row.matches, Instr.row, encode, or_and, putX_selectNN]
  decide

theorem ldStVx (x : RegIdx) : Statement (.ldStVx x) := by
  refine ⟨Instr.wellFormed_all _, ?_⟩
  simp only [Row.matches, Instr.row, encode, or_and, putX_selectNN]
  decide

theorem addI (x : RegIdx) : Statement (.addI x) := by
  refine ⟨Instr.wellFormed_all _, ?_⟩
  simp only [Row.matches, Instr.row, encode, or_and, putX_selectNN]
  decide

theorem ldF (x : RegIdx) : Statement (.ldF x) := by
  refine ⟨Instr.wellFormed_all _, ?_⟩
  simp only [Row.matches, Instr.row, encode, or_and, putX_selectNN]
  decide

theorem ldB (x : RegIdx) : Statement (.ldB x) := by
  refine ⟨Instr.wellFormed_all _, ?_⟩
  simp only [Row.matches, Instr.row, encode, or_and, putX_selectNN]
  decide

theorem stRegs (x : RegIdx) : Statement (.stRegs x) := by
  refine ⟨Instr.wellFormed_all _, ?_⟩
  simp only [Row.matches, Instr.row, encode, or_and, putX_selectNN]
  decide

theorem ldRegs (x : RegIdx) : Statement (.ldRegs x) := by
  refine ⟨Instr.wellFormed_all _, ?_⟩
  simp only [Row.matches, Instr.row, encode, or_and, putX_selectNN]
  decide

end Sys2Proof.Laws.Encoding
end

