-- ==== Sys2Proof/Laws/Step.lean ====
section
/-! SUPPORT. Said once: what an instruction never changes, what a STEP can be, and what a step can be. -/

namespace Sys2Proof.Machine

/-- What no instruction changes: KB_PREV, the outputs, the keyboard lines, the host's list and the parameters. -/
structure SameSurroundings (s t : State) : Prop where
  kbPrev : t.kbPrev = s.kbPrev
  report : t.report = s.report
  loadError : t.loadError = s.loadError
  keys : t.keys = s.keys
  host : t.host = s.host
  params : t.params = s.params

theorem State.fatal_eq {s t : State} {c : Fault} (h : s.fatal c = .next t) : t = s.setRs (.faulted c) := by
  cases h; rfl

/-- An instruction changes none of its surroundings (40_step_cycle.md R117, R118). -/
theorem exec_surroundings {i : Instr} {s t : State} (h : exec i s = .next t) : SameSurroundings s t := by
  have hd : SameSurroundings s s.drawRand.2 := by
    obtain ⟨r, n, hr⟩ := s.drawRand_state
    rw [hr]
    exact ⟨rfl, rfl, rfl, rfl, rfl, rfl⟩
  cases i with
  | ret =>
    simp only [exec, execRet] at h
    by_cases h0 : 0 < s.sp.val
    · rw [State.pop_of_pos h0] at h; cases h; exact ⟨rfl, rfl, rfl, rfl, rfl, rfl⟩
    · rw [State.pop_empty h0] at h; cases h; exact ⟨rfl, rfl, rfl, rfl, rfl, rfl⟩
  | call nnn =>
    simp only [exec, execCall] at h
    by_cases h0 : s.sp.val < 16
    · rw [State.push_of_lt h0] at h; cases h; exact ⟨rfl, rfl, rfl, rfl, rfl, rfl⟩
    · rw [State.push_full h0] at h; cases h; exact ⟨rfl, rfl, rfl, rfl, rfl, rfl⟩
  | rnd x nn =>
    cases h
    exact ⟨hd.kbPrev, hd.report, hd.loadError, hd.keys, hd.host, hd.params⟩
  | ldVxK x =>
    simp only [exec, execLdVxK] at h
    rcases s.takeKey_cases x with ⟨hk, -⟩ | ⟨k, -, hk⟩ <;> rw [hk] at h <;> cases h <;>
      exact ⟨rfl, rfl, rfl, rfl, rfl, rfl⟩
  | addI x =>
    simp only [exec, execAddI] at h
    split at h <;> cases h
    exact ⟨rfl, rfl, rfl, rfl, rfl, rfl⟩
  | drw x y n =>
    simp only [exec, execDrw] at h
    split at h <;> cases h <;> exact ⟨rfl, rfl, rfl, rfl, rfl, rfl⟩
  | ldB x =>
    simp only [exec, execLdB] at h
    split at h <;> cases h <;> exact ⟨rfl, rfl, rfl, rfl, rfl, rfl⟩
  | stRegs x =>
    simp only [exec, execStRegs] at h
    split at h <;> cases h <;> exact ⟨rfl, rfl, rfl, rfl, rfl, rfl⟩
  | ldRegs x =>
    simp only [exec, execLdRegs] at h
    generalize s.loadedBlock x = w at h
    split at h <;> cases h <;> exact ⟨rfl, rfl, rfl, rfl, rfl, rfl⟩
  | skp x =>
    simp only [exec, execSkp] at h
    split at h <;> cases h <;> exact ⟨rfl, rfl, rfl, rfl, rfl, rfl⟩
  | sknp x =>
    simp only [exec, execSknp] at h
    split at h <;> cases h <;> exact ⟨rfl, rfl, rfl, rfl, rfl, rfl⟩
  | cls | jp | seImm | sneImm | seReg | ldImm | addImm | ldReg | orReg | andReg | xorReg | addReg | subReg | shr | subn
  | shl | sneReg | ldI | jpV0 | ldVxDt | ldDtVx | ldStVx | ldF =>
    cases h; exact ⟨rfl, rfl, rfl, rfl, rfl, rfl⟩

/-- A STEP before a LOAD (40_step_cycle.md R111). -/
theorem stepOp_unloaded {s : State} (h : s.rs = .unloaded) : stepOp s = .refused .stepBeforeLoad := by
  unfold stepOp
  rw [h]

/-- A STEP of a Faulted core (R112). -/
theorem stepOp_faulted {s : State} {c : Fault} (h : s.rs = .faulted c) : stepOp s = .next (s.setReport none) := by
  unfold stepOp
  rw [h]

/-- A STEP of a waiting core (45_timers_keys.md R226). -/
theorem stepOp_awaiting {s : State} {x : RegIdx} (h : s.rs = .awaitingKey x) :
    stepOp s = endStep (.next ((s.setReport none).awaitKey x)) := by
  unfold stepOp
  rw [h]

/-- A STEP whose fetch faults (40_step_cycle.md R114). -/
theorem stepOp_fetchFault {s : State} {c : Fault} (h : s.rs = .running) (hf : s.fetch = .error c) :
    stepOp s = .next ((s.setReport none).setRs (.faulted c)) := by
  unfold stepOp runningStep
  rw [h, show (s.setReport none).fetch = s.fetch from rfl, hf]
  rfl

/-- A STEP that fetches an INVALID word (R116). -/
theorem stepOp_invalid {s : State} {w : Word} {e : DecodeError} (h : s.rs = .running) (hf : s.fetch = .ok w)
    (hd : decode w = .error e) : stepOp s = endStep (.next ((s.setReport none).reportInvalid w)) := by
  unfold stepOp runningStep
  rw [h, show (s.setReport none).fetch = s.fetch from rfl, hf]
  simp only [runWord, hd]

/-- A STEP that fetches an instruction (R115, R117). -/
theorem stepOp_decoded {s : State} {w : Word} {i : Instr} (h : s.rs = .running) (hf : s.fetch = .ok w)
    (hd : decode w = .ok i) : stepOp s = endStep (exec i (s.setReport none)) := by
  unfold stepOp runningStep
  rw [h, show (s.setReport none).fetch = s.fetch from rfl, hf]
  simp only [runWord, hd]

/-- The four things a STEP is, by run state (40_step_cycle.md R110, R120). -/
inductive StepCase (s : State) : Result → Prop where
  /-- Refused before a LOAD (R111). -/
  | unloaded (h : s.rs = .unloaded) : StepCase s (.refused .stepBeforeLoad)
  /-- Nothing, in Faulted (R112). -/
  | faulted (c : Fault) (h : s.rs = .faulted c) : StepCase s (.next (s.setReport none))
  /-- The wait of FX0A (R226). -/
  | awaiting (x : RegIdx) (h : s.rs = .awaitingKey x) :
    StepCase s (.next ((s.setReport none).awaitKey x).sampleKeys)
  /-- A fetch that faults (R114). -/
  | fetchFault (c : Fault) (h : s.rs = .running) (hf : s.fetch = .error c) :
    StepCase s (.next ((s.setReport none).setRs (.faulted c)))
  /-- An INVALID word (R116). -/
  | invalid (w : Word) (e : DecodeError) (h : s.rs = .running) (hf : s.fetch = .ok w) (hd : decode w = .error e) :
    StepCase s (.next ((s.setReport none).reportInvalid w).sampleKeys)
  /-- An instruction that ends in a next state (R117). -/
  | executed (w : Word) (i : Instr) (t : State) (h : s.rs = .running) (hf : s.fetch = .ok w) (hd : decode w = .ok i)
      (hx : exec i (s.setReport none) = .next t) : StepCase s (.next t.sampleKeys)
  /-- An instruction that does not (R120). -/
  | stopped (w : Word) (i : Instr) (r : Result) (h : s.rs = .running) (hf : s.fetch = .ok w) (hd : decode w = .ok i)
      (hx : exec i (s.setReport none) = r) (hn : ∀ t, r ≠ .next t) : StepCase s r

theorem stepOp_cases (s : State) : StepCase s (stepOp s) := by
  unfold stepOp
  split
  · rename_i h; exact .unloaded h
  · rename_i h
    unfold runningStep
    have hfetch : (s.setReport none).fetch = s.fetch := rfl
    rw [hfetch]
    split
    · rename_i c hf; exact .fetchFault c h hf
    · rename_i w hf
      unfold runWord
      split
      · rename_i e hd; exact .invalid w e h hf hd
      · rename_i i hd
        cases hx : exec i (s.setReport none) with
        | next t => exact .executed w i t h hf hd hx
        | fault f => exact .stopped w i _ h hf hd hx (fun _ ht => by cases ht)
        | refused r => exact .stopped w i _ h hf hd hx (fun _ ht => by cases ht)
  · rename_i x h; exact .awaiting x h
  · rename_i c h; exact .faulted c h

/-- A waiting STEP changes nothing, or completes the FX0A (45_timers_keys.md R226). -/
theorem State.awaitKey_cases (s : State) (x : RegIdx) :
    (s.awaitKey x = s ∧ ∀ k, s.newlyPressed k = false) ∨
    (∃ k, s.newlyPressed k = true ∧ s.awaitKey x =
      ((s.setDraws s.randIn (s.draws + 1)).writeResult x (BitVec.ofNat 8 k.val)).setRs .running) := by
  rcases s.takeKey_cases x with ⟨h, hk⟩ | ⟨k, hk, h⟩
  · exact .inl ⟨by simp only [State.awaitKey, h], hk⟩
  · exact .inr ⟨k, hk, by simp only [State.awaitKey, h]⟩

/-- The host's next operation is performed, a STEP where none is listed (10_state.md R43). -/
theorem step_nil {s : State} (h : s.host = []) : step s = stepOp s := by
  simp only [step, h]

theorem step_cons {s : State} {op : HostOp} {rest : List HostOp} (h : s.host = op :: rest) :
    step s = perform op { s with host := rest } := by
  simp only [step, h]

end Sys2Proof.Machine
end

