-- ==== Sys2Proof/Machine/Assembly.lean ====
section
/-! DEFINITION. The spec's assembler notation (30_encoding.md R100, R101): an instruction's spelling, and the bytes of a
program image. Comments, and labels as NN, are left out (log entry 21). -/

namespace Sys2Proof.Machine

/-- One hexadecimal digit. -/
def hexDigit (n : Nat) : String :=
  ["0", "1", "2", "3", "4", "5", "6", "7", "8", "9", "A", "B", "C", "D", "E", "F"].getD (n % 16) "0"

/-- A register's spelling, V0 to VF. -/
def asmReg (x : RegIdx) : String := "V" ++ hexDigit x.val

/-- NN as a hex number. -/
def asmNN (b : Byte) : String := "0x" ++ hexDigit (b.toNat / 16) ++ hexDigit b.toNat

/-- NNN as a hex number. -/
def asmNNN (a : Addr12) : String :=
  "0x" ++ hexDigit (a.toNat / 256) ++ hexDigit (a.toNat / 16) ++ hexDigit a.toNat

/-- N as a hex number from 0x0 to 0xF. -/
def asmN (n : Height) : String := "0x" ++ hexDigit n.val

/-- A two-register spelling. -/
def asmXY (m : String) (x y : RegIdx) : String := m ++ " " ++ asmReg x ++ ", " ++ asmReg y

/-- A register and immediate spelling. -/
def asmXB (m : String) (x : RegIdx) (b : Byte) : String := m ++ " " ++ asmReg x ++ ", " ++ asmNN b

/-- An instruction's spelling: the mnemonic column of R95 with the operands of R100. -/
def asm : Instr → String
  | .cls => "CLS"
  | .ret => "RET"
  | .jp a => "JP " ++ asmNNN a
  | .call a => "CALL " ++ asmNNN a
  | .seImm x b => asmXB "SE" x b
  | .sneImm x b => asmXB "SNE" x b
  | .seReg x y => asmXY "SE" x y
  | .ldImm x b => asmXB "LD" x b
  | .addImm x b => asmXB "ADD" x b
  | .ldReg x y => asmXY "LD" x y
  | .orReg x y => asmXY "OR" x y
  | .andReg x y => asmXY "AND" x y
  | .xorReg x y => asmXY "XOR" x y
  | .addReg x y => asmXY "ADD" x y
  | .subReg x y => asmXY "SUB" x y
  | .shr x y => asmXY "SHR" x y
  | .subn x y => asmXY "SUBN" x y
  | .shl x y => asmXY "SHL" x y
  | .sneReg x y => asmXY "SNE" x y
  | .ldI a => "LD I, " ++ asmNNN a
  | .jpV0 a => "JP V0, " ++ asmNNN a
  | .rnd x b => asmXB "RND" x b
  | .drw x y n => asmXY "DRW" x y ++ ", " ++ asmN n
  | .skp x => "SKP " ++ asmReg x
  | .sknp x => "SKNP " ++ asmReg x
  | .ldVxDt x => "LD " ++ asmReg x ++ ", DT"
  | .ldVxK x => "LD " ++ asmReg x ++ ", K"
  | .ldDtVx x => "LD DT, " ++ asmReg x
  | .ldStVx x => "LD ST, " ++ asmReg x
  | .addI x => "ADD I, " ++ asmReg x
  | .ldF x => "LD F, " ++ asmReg x
  | .ldB x => "LD B, " ++ asmReg x
  | .stRegs x => "LD [I], " ++ asmReg x
  | .ldRegs x => "LD " ++ asmReg x ++ ", [I]"

/-- One item of a program: an instruction, raw bytes `DB b0, b1, …`, a label, or an instruction whose NNN is a label
(R100, R101). -/
inductive AsmItem where
  | insn (i : Instr)
  | db (bs : List Byte)
  | label (name : String)
  | jpTo (name : String)
  | callTo (name : String)
  | ldITo (name : String)
  | jpV0To (name : String)
  deriving DecidableEq, Repr

/-- How many bytes an item places: two for an instruction (R90), none for a label. -/
def AsmItem.size : AsmItem → Nat
  | .db bs => bs.length
  | .label _ => 0
  | _ => 2

/-- The address of the byte after a label, the first item standing at `a` (R101). DESIGN CHOICE (log entry 21), the spec
being silent on both: of two labels of the same name the first one counts, and a name no label has stands for 0. -/
def labelAddress (name : String) : List AsmItem → Nat → Nat
  | [], _ => 0
  | .label n :: p, a => if n = name then a else labelAddress name p a
  | x :: p, a => labelAddress name p (a + x.size)

/-- The bytes an item places at the next addresses (20_memory.md R63, R101), with the labels of the program `p` at
0x200. DESIGN CHOICE (log entry 21), the spec being silent: a label whose address does not fit NNN keeps its low 12 bits, so
that a label after a full image, at 0x1000, stands for 0x000. -/
def AsmItem.bytes (p : List AsmItem) (x : AsmItem) : List Byte :=
  let target := fun name => BitVec.ofNat 12 (labelAddress name p 0x200)
  match x with
  | .insn i => bytesOfWord (encode i)
  | .db bs => bs
  | .label _ => []
  | .jpTo l => bytesOfWord (encode (.jp (target l)))
  | .callTo l => bytesOfWord (encode (.call (target l)))
  | .ldITo l => bytesOfWord (encode (.ldI (target l)))
  | .jpV0To l => bytesOfWord (encode (.jpV0 (target l)))

/-- The program image of a list of items, to be loaded at 0x200 (20_memory.md R67). -/
def assemble (p : List AsmItem) : List Byte := p.flatMap (AsmItem.bytes p)

end Sys2Proof.Machine
end

