-- ==== Sys2Proof/Tests/Slice0.lean ====
section
/-! SUPPORT. Tests: words written out from the opcode map (30_encoding.md R95), the ill-formed terms the checks refuse, the
spec's own vectors (95_test_vectors.md), and for each statement with hypotheses a state that meets them. -/

namespace Sys2Proof.Tests

open Sys2Proof Sys2Proof.Machine Sys2Proof.Safety

/-! ## Decoding: one word per constructor, written out from R95. -/

theorem test_decode_cls : decode 0x00E0 = .ok .cls := by decide
theorem test_decode_ret : decode 0x00EE = .ok .ret := by decide
theorem test_decode_jp : decode 0x1234 = .ok (.jp 0x234) := by decide
theorem test_decode_call : decode 0x2300 = .ok (.call 0x300) := by decide
theorem test_decode_seImm : decode 0x33AA = .ok (.seImm 3 0xAA) := by decide
theorem test_decode_sneImm : decode 0x43AB = .ok (.sneImm 3 0xAB) := by decide
theorem test_decode_seReg : decode 0x5120 = .ok (.seReg 1 2) := by decide
theorem test_decode_ldImm : decode 0x6A12 = .ok (.ldImm 0xA 0x12) := by decide
theorem test_decode_addImm : decode 0x7A01 = .ok (.addImm 0xA 1) := by decide
theorem test_decode_ldReg : decode 0x8010 = .ok (.ldReg 0 1) := by decide
theorem test_decode_orReg : decode 0x8231 = .ok (.orReg 2 3) := by decide
theorem test_decode_andReg : decode 0x8452 = .ok (.andReg 4 5) := by decide
theorem test_decode_xorReg : decode 0x8673 = .ok (.xorReg 6 7) := by decide
theorem test_decode_addReg : decode 0x8F14 = .ok (.addReg 0xF 1) := by decide
theorem test_decode_subReg : decode 0x8895 = .ok (.subReg 8 9) := by decide
theorem test_decode_shr : decode 0x8AB6 = .ok (.shr 0xA 0xB) := by decide
theorem test_decode_subn : decode 0x8CD7 = .ok (.subn 0xC 0xD) := by decide
theorem test_decode_shl : decode 0x8EFE = .ok (.shl 0xE 0xF) := by decide
theorem test_decode_sneReg : decode 0x9120 = .ok (.sneReg 1 2) := by decide
theorem test_decode_ldI : decode 0xA30F = .ok (.ldI 0x30F) := by decide
theorem test_decode_jpV0 : decode 0xBFFE = .ok (.jpV0 0xFFE) := by decide
theorem test_decode_rnd : decode 0xC30F = .ok (.rnd 3 0x0F) := by decide
theorem test_decode_drw : decode 0xD125 = .ok (.drw 1 2 5) := by decide
theorem test_decode_skp : decode 0xE59E = .ok (.skp 5) := by decide
theorem test_decode_sknp : decode 0xE0A1 = .ok (.sknp 0) := by decide
theorem test_decode_ldVxDt : decode 0xFF07 = .ok (.ldVxDt 0xF) := by decide
theorem test_decode_ldVxK : decode 0xF30A = .ok (.ldVxK 3) := by decide
theorem test_decode_ldDtVx : decode 0xFA15 = .ok (.ldDtVx 0xA) := by decide
theorem test_decode_ldStVx : decode 0xF118 = .ok (.ldStVx 1) := by decide
theorem test_decode_addI : decode 0xFF1E = .ok (.addI 0xF) := by decide
theorem test_decode_ldF : decode 0xF229 = .ok (.ldF 2) := by decide
theorem test_decode_ldB : decode 0xF033 = .ok (.ldB 0) := by decide
theorem test_decode_stRegs : decode 0xF255 = .ok (.stRegs 2) := by decide
theorem test_decode_ldRegs : decode 0xF065 = .ok (.ldRegs 0) := by decide

/-- An INVALID word of each family of R97's list. -/
theorem test_decode_invalid : decode 0x0FFF = .error (.invalidOpcode 0x0FFF) ∧
    decode 0x5121 = .error (.invalidOpcode 0x5121) ∧ decode 0x8018 = .error (.invalidOpcode 0x8018) ∧
    decode 0x9121 = .error (.invalidOpcode 0x9121) ∧ decode 0xE09F = .error (.invalidOpcode 0xE09F) ∧
    decode 0xF0FF = .error (.invalidOpcode 0xF0FF) := by decide

/-- A byte string too short for a word, and one with bytes left over (R90). -/
theorem test_decodeBytes : decodeBytes [0x6A] = .error .truncated ∧
    decodeBytes [0x6A, 0x12, 0x7A] = .ok (.ldImm 0xA 0x12, [0x7A]) := by decide

/-- The bit numbering of the opcode table. -/
theorem test_decodeTableWord : decodeTableWord 16 0x6A12 = some (.ldImm 0xA 0x12) ∧ decodeTableWord 16 0x0FFF = none := by
  decide

/-- P1's ROM bytes, its two jump targets as labels (95_test_vectors.md, R101). -/
theorem test_assemble : assemble [.insn (.ldImm 0 0), .insn (.ldImm 1 5), .label "loop", .insn (.addImm 0 1),
    .insn (.seReg 0 1), .jpTo "loop", .label "done", .jpTo "done"] =
    [0x60, 0x00, 0x61, 0x05, 0x70, 0x01, 0x50, 0x10, 0x12, 0x04, 0x12, 0x0A] := by decide

/-- The spelling of P4's DRW (95_test_vectors.md). -/
theorem test_asm : asm (.ldImm 0xA 0x12) = "LD VA, 0x12" := by decide

/-! ## Well-formedness: an ill-formed term for each check. -/

theorem test_field_x_too_wide : Field.fits ⟨8, 4, 16⟩ = false := by decide
theorem test_field_nn_too_wide : Field.fits ⟨0, 8, 256⟩ = false := by decide
theorem test_field_nnn_too_wide : Field.fits ⟨0, 12, 4096⟩ = false := by decide
theorem test_field_widest : Field.fits ⟨0, 12, 4095⟩ = true := by decide
theorem test_rom_too_large : romFits (List.replicate 3585 0) = false :=
  decide_eq_false (by rw [List.length_replicate]; decide)
theorem test_rom_largest : romFits (List.replicate 3584 0) = true :=
  decide_eq_true (by rw [List.length_replicate])
theorem test_meminit_unsorted : Memory.wf [(0x301, 1), (0x300, 1)] = false := by decide
theorem test_meminit_repeated : Memory.wf [(0x300, 1), (0x300, 2)] = false := by decide
theorem test_meminit_outside : Memory.wf [(0x1000, 1)] = false := by decide
theorem test_meminit_lists_unlisted : Memory.wf [(0x300, 0)] = false ∧ Memory.wf [(0x050, 0xF0)] = false := by decide
theorem test_meminit_canonical : Memory.wf [(0x050, 0), (0x300, 1), (0xFFF, 2)] = true := by decide

/-! ## The spec's vectors, one step each. -/

/-- A Running core at 0x200 with the word there, as a LOAD of it leaves one. Its memory is that of reset, which lists
nothing (`Memory.initial_reference`). -/
def at200 (w : Nat) : State := ({ State.reset with mem := [] } : State).withFetchWord 16 w

theorem at200_eq (w : Nat) : at200 w = State.reset.withFetchWord 16 w := by
  rw [at200, ← show State.reset.mem = [] from Memory.initial_reference]

/-- The next state of an outcome; the reset state where there is none. -/
def after : Result → State
  | .next s => s
  | _ => State.reset

/-- The refusal of an outcome, if it is one. -/
def refusal : Result → Option Refusal
  | .refused r => some r
  | _ => none

/-- The keyboard lines with the listed keys down. -/
def down (ks : List KeyIdx) : Keys := Vector.ofFn fun k => decide (k ∈ ks)

/-- A state with the byte `b` at address `a`. -/
def poke (a : Nat) (b : Byte) (s : State) : State := s.setMem (s.mem.write a b)

/-- CF1 and CF2. -/
theorem test_ret_underflow : (after (step (at200 0x00EE))).rs = .faulted .stackUnderflow ∧
    (after (step (at200 0x00EE))).pc = 0x200 := by decide
theorem test_ret : (after (step ((at200 0x00EE).setStack 2 ((at200 0).stack.set 1 0x456)))).pc = 0x456 ∧
    (after (step ((at200 0x00EE).setStack 2 ((at200 0).stack.set 1 0x456)))).sp = 1 := by decide

/-- CF3, and the target of CF5. -/
theorem test_jp : (after (step (at200 0x1234))).pc = 0x234 := by decide
theorem test_jp_top : (after (step ((at200 0x1FFF)))).pc = 0xFFF := by decide

/-- CF7 and CF8. -/
theorem test_call : (after (step ((at200 0x2300).setStack 15 (at200 0).stack))).stack.get 15 = 0x202 ∧
    (after (step ((at200 0x2300).setStack 15 (at200 0).stack))).sp = 16 ∧
    (after (step ((at200 0x2300).setStack 15 (at200 0).stack))).pc = 0x300 := by decide
theorem test_call_overflow : (after (step ((at200 0x2300).setStack 16 (at200 0).stack))).rs = .faulted .stackOverflow ∧
    (after (step ((at200 0x2300).setStack 16 (at200 0).stack))).sp = 16 := by decide

/-- CF9 to CF17. -/
theorem test_seImm : (after (step ((at200 0x33AA).setReg 3 0xAA))).pc = 0x204 := by decide
theorem test_seImm_not : (after (step ((at200 0x33AA).setReg 3 0xAB))).pc = 0x202 := by decide
theorem test_sneImm_not : (after (step ((at200 0x43AA).setReg 3 0xAA))).pc = 0x202 := by decide
theorem test_sneImm : (after (step (at200 0x43AA))).pc = 0x204 := by decide
theorem test_seReg : (after (step (((at200 0x5120).setReg 1 0x7F).setReg 2 0x7F))).pc = 0x204 := by decide
theorem test_seReg_not : (after (step ((at200 0x5120).setReg 1 0x7F))).pc = 0x202 := by decide
theorem test_sneReg : (after (step (((at200 0x9120).setReg 1 1).setReg 2 2))).pc = 0x204 := by decide
theorem test_sneReg_self : (after (step ((at200 0x9110).setReg 1 5))).pc = 0x202 := by decide

/-- CF18, and the first STEP of CF19. -/
theorem test_jpV0 : (after (step ((at200 0xB300).setReg 0 4))).pc = 0x304 := by decide
theorem test_jpV0_exact : (after (step ((at200 0xBFFF).setReg 0 0xFF))).pc = 0x10FE := by decide

/-- S1 and S2. -/
theorem test_ldImm : (after (step (at200 0x6A12))).reg 0xA = 0x12 ∧ (after (step (at200 0x6A12))).pc = 0x202 := by decide
theorem test_addImm_wraps : (after (step (((at200 0x7A01).setReg 0xA 0xFF).setReg 0xF 0x55))).reg 0xA = 0 ∧
    (after (step (((at200 0x7A01).setReg 0xA 0xFF).setReg 0xF 0x55))).reg 0xF = 0x55 := by decide
/-- AL2. -/
theorem test_addImm_vf : (after (step ((at200 0x7F01).setReg 0xF 0xFF))).reg 0xF = 0 := by decide
/-- AL3. -/
theorem test_ldReg : (after (step ((at200 0x8010).setReg 1 0x5A))).reg 0 = 0x5A := by decide
/-- AL4. -/
theorem test_orReg : (after (step ((((at200 0x8011).setReg 0 1).setReg 1 2).setReg 0xF 0x77))).reg 0 = 3 ∧
    (after (step ((((at200 0x8011).setReg 0 1).setReg 1 2).setReg 0xF 0x77))).reg 0xF = 0x77 := by decide
/-- AL5. -/
theorem test_andReg : (after (step (((at200 0x8012).setReg 0 0xF0).setReg 1 0x3C))).reg 0 = 0x30 := by decide
/-- AL6. -/
theorem test_xorReg_self : (after (step ((at200 0x8003).setReg 0 0x5A))).reg 0 = 0 := by decide
/-- S3 and AL7. -/
theorem test_addReg_carry : (after (step (((at200 0x8014).setReg 0 0xFF).setReg 1 1))).reg 0 = 0 ∧
    (after (step (((at200 0x8014).setReg 0 0xFF).setReg 1 1))).reg 0xF = 1 := by decide
theorem test_addReg_vf : (after (step (((at200 0x8F14).setReg 0xF 0xFF).setReg 1 1))).reg 0xF = 1 := by decide
/-- S6 and AL11. -/
theorem test_subReg_borrow : (after (step (((at200 0x8015).setReg 0 3).setReg 1 5))).reg 0 = 0xFE ∧
    (after (step (((at200 0x8015).setReg 0 3).setReg 1 5))).reg 0xF = 0 := by decide
theorem test_subReg_equal : (after (step (((at200 0x8015).setReg 0 7).setReg 1 7))).reg 0xF = 0 := by decide
/-- AL13 and AL14. -/
theorem test_subn : (after (step (((at200 0x8017).setReg 0 3).setReg 1 5))).reg 0 = 2 ∧
    (after (step (((at200 0x8017).setReg 0 3).setReg 1 5))).reg 0xF = 1 := by decide
theorem test_subn_borrow : (after (step (((at200 0x8017).setReg 0 5).setReg 1 3))).reg 0 = 0xFE ∧
    (after (step (((at200 0x8017).setReg 0 5).setReg 1 3))).reg 0xF = 0 := by decide

/-- A state whose shifts take V[Y]. -/
def shiftY (s : State) : State := { s with params := { s.params with shiftSrc := .vy } }

/-- AL17 and AL18. -/
theorem test_shr_vx : (after (step ((at200 0x8016).setReg 1 3))).reg 0 = 0 ∧
    (after (step ((at200 0x8016).setReg 1 3))).reg 0xF = 0 := by decide
theorem test_shr_vy : (after (step (shiftY ((at200 0x8016).setReg 1 3)))).reg 0 = 1 ∧
    (after (step (shiftY ((at200 0x8016).setReg 1 3)))).reg 0xF = 1 := by decide
/-- AL20 and AL22. -/
theorem test_shl : (after (step ((at200 0x800E).setReg 0 0xC1))).reg 0 = 0x82 ∧
    (after (step ((at200 0x800E).setReg 0 0xC1))).reg 0xF = 1 := by decide
theorem test_shl_vy : (after (step (shiftY (((at200 0x801E).setReg 0 1).setReg 1 0x81)))).reg 0 = 2 ∧
    (after (step (shiftY (((at200 0x801E).setReg 0 1).setReg 1 0x81)))).reg 0xF = 1 := by decide
/-- AL24 and AL25. -/
theorem test_rnd : (after (step ((at200 0xC30F).setDraws [0xA7, 0x11] 0))).reg 3 = 7 ∧
    (after (step ((at200 0xC30F).setDraws [0xA7, 0x11] 0))).randIn = [0x11] := by decide
theorem test_rnd_zero_mask : (after (step ((at200 0xC000).setDraws [0xFF] 0))).reg 0 = 0 ∧
    (after (step ((at200 0xC000).setDraws [0xFF] 0))).randIn = [] := by decide

/-- IM1. -/
theorem test_ldI : (after (step (at200 0xA300))).i = 0x300 := by decide
/-- IM2 and IM4. -/
theorem test_addI : (after (step (((at200 0xF01E).setI 0x0FFE).setReg 0 5))).i = 0x1003 ∧
    (after (step (((at200 0xF01E).setI 0x0FFE).setReg 0 5))).reg 0xF = 0 := by decide
theorem test_addI_refused : refusal (step (((at200 0xF01E).setI 0xFFFF).setReg 0 1)) = some .indexOverflow := by decide
/-- IM6 and IM8. -/
theorem test_ldF : (after (step ((at200 0xF229).setReg 2 0xA))).i = 0x0082 := by decide
theorem test_ldF_unmasked : (after (step ((at200 0xF029).setReg 0 0xFF))).i = 0x054B := by decide
/-- IM9 and IM12. -/
theorem test_ldB : (after (step (((at200 0xF033).setI 0x300).setReg 0 0xFE))).mem.read 0x300 = 2 ∧
    (after (step (((at200 0xF033).setI 0x300).setReg 0 0xFE))).mem.read 0x301 = 5 ∧
    (after (step (((at200 0xF033).setI 0x300).setReg 0 0xFE))).mem.read 0x302 = 4 := by decide
theorem test_ldB_out_of_range : (after (step (((at200 0xF033).setI 0xFFE).setReg 0 0xFF))).rs = .faulted .dataOutOfRange ∧
    (after (step (((at200 0xF033).setI 0xFFE).setReg 0 0xFF))).mem.read 0xFFE = 0 := by decide

/-- A state whose FX55 and FX65 advance I. -/
def advanceI (s : State) : State := { s with params := { s.params with indexAdvance := .advance } }

/-- IM15 and IM16. -/
theorem test_stRegs : (after (step ((((at200 0xFF55).setI 0xFF0).setReg 0 1).setReg 0xF 9))).mem.read 0xFF0 = 1 ∧
    (after (step ((((at200 0xFF55).setI 0xFF0).setReg 0 1).setReg 0xF 9))).mem.read 0xFFF = 9 ∧
    (after (step ((((at200 0xFF55).setI 0xFF0).setReg 0 1).setReg 0xF 9))).i = 0xFF0 := by decide
theorem test_stRegs_advance : (after (step (advanceI ((at200 0xFF55).setI 0xFF0)))).i = 0x1000 := by decide
/-- IM18 and IM19. -/
theorem test_ldRegs : (after (step ((at200 0xFF65).setI 0x050))).reg 5 = 0x20 ∧
    (after (step ((at200 0xFF65).setI 0x050))).reg 0xF = 0xF0 := by decide
theorem test_ldRegs_out_of_range : (after (step ((at200 0xF065).setI 0x1000))).rs = .faulted .dataOutOfRange := by decide

/-- DS1. -/
theorem test_cls : pixel (after (step ((at200 0x00E0).setDisp (flipPixel blankDisplay 3 4)))).disp 3 4 = false := by decide
/-- DS4: a sprite wrapped over the right and the lower edge. -/
theorem test_drw_wraps :
    let t := after (step (((((poke 0x300 0xC3 (poke 0x301 0x81 (at200 0xD012))).setI 0x300).setReg 0 62).setReg 1 31)))
    pixel t.disp 62 31 = true ∧ pixel t.disp 0 31 = false ∧ pixel t.disp 5 31 = true ∧ pixel t.disp 62 0 = true ∧
      pixel t.disp 5 0 = true ∧ pixel t.disp 4 0 = false ∧ t.reg 0xF = 0 := by decide
/-- DS9: the range check comes first and nothing is drawn. -/
theorem test_drw_out_of_range : (after (step ((at200 0xD012).setI 0xFFF))).rs = .faulted .dataOutOfRange ∧
    (after (step ((at200 0xD012).setI 0xFFF))).disp = blankDisplay := by decide

/-- TK1 to TK3. -/
theorem test_ldVxDt : (after (step ((at200 0xFF07).setDt 0x20))).reg 0xF = 0x20 := by decide
theorem test_ldDtVx : (after (step ((at200 0xFA15).setReg 0xA 0x3C))).dt = 0x3C := by decide
theorem test_ldStVx : (after (step ((at200 0xF118).setReg 1 2))).st = 2 := by decide
/-- TK4, TK7 and TK8. -/
theorem test_skp : (after (step { (at200 0xE59E).setReg 5 0xA with keys := down [0xA] })).pc = 0x204 := by decide
theorem test_skp_no_key : (after (step ((at200 0xE09E).setReg 0 0x10))).rs = .faulted .keyIndexOutOfRange := by decide
theorem test_sknp : (after (step { (at200 0xE0A1).setReg 0 3 with keys := down [3] })).pc = 0x202 := by decide
/-- TK9 and TK10. -/
theorem test_ldVxK : (after (step { at200 0xF30A with keys := down [7] })).reg 3 = 7 ∧
    (after (step { at200 0xF30A with keys := down [7] })).kbPrev = down [7] := by decide
theorem test_ldVxK_waits : (after (step (at200 0xF30A))).rs = .awaitingKey 3 ∧
    (after (step (at200 0xF30A))).pc = 0x200 := by decide
/-- TK13's second STEP. -/
theorem test_awaiting_completes : (after (step { (at200 0).setRs (.awaitingKey 3) with keys := down [5] })).reg 3 = 5 ∧
    (after (step { (at200 0).setRs (.awaitingKey 3) with keys := down [5] })).rs = .running := by decide

/-- TK14: a timer at zero stays there. -/
theorem test_timerTick : (timerTick ((at200 0).setDt 1)).dt = 0 ∧ (timerTick ((at200 0).setDt 1)).st = 0 := by decide
/-- S10: an INVALID word is reported. -/
theorem test_invalid : (after (step (at200 0x0FFF))).report = some ⟨0x200, 0x0FFF⟩ ∧
    (after (step (at200 0x0FFF))).pc = 0x202 := by decide
/-- SY1 and SY4. -/
theorem test_step_before_load : refusal (step State.reset) = some .stepBeforeLoad := by decide
theorem test_load_while_loaded : refusal (perform (.load [0, 0]) (at200 0)) = some .loadWhileLoaded := by decide
/-- P1's first STEP, the ROM loaded by the host. -/
theorem test_load_then_step : (after (step (after (perform (.load [0x60, 0x07]) State.reset)))).reg 0 = 7 := by decide

/-! ## Witnesses: for each statement with hypotheses, a state and operands that meet them, clause by clause. -/

/-- A Running core with reset's values and nothing listed in memory. -/
def core0 : State := at200 0x6A12

/-- Whether an outcome is a next state. -/
def isNext : Result → Bool
  | .next _ => true
  | _ => false

theorem next_after {r : Result} (h : isNext r = true) : r = .next (after r) := by
  cases r with
  | next s => rfl
  | fault f => cases h
  | refused f => cases h

theorem witness_EncodeOfDecode : decode 0xD125 = .ok (.drw 1 2 5) := by decide

theorem witness_RowsDecideDecoding : Instr.cls.row ∈ opcodeTable ∧ Instr.cls.row.matches 0x00E0 = true ∧
    ∃ i, decode 0x00E0 = .ok i ∧ i.row = Instr.cls.row := ⟨by decide, by decide, .cls, by decide, rfl⟩

theorem witness_InvalidWordsExactly : decode 0x00E0 = .ok .cls ∧ decode 0x00E1 = .error (.invalidOpcode 0x00E1) ∧
    decode 0x800D = .error (.invalidOpcode 0x800D) ∧ decode 0x800E = .ok (.shl 0 0) ∧
    decode 0x800F = .error (.invalidOpcode 0x800F) := by decide

theorem witness_StepRunsDecodedInstruction :
    (core0.rs = .running ∧ core0.pc.toNat + 1 ≤ 0xFFF ∧ core0.pc.toNat % 2 = 0 ∧
      decode (wordOfBytes (core0.mem.read core0.pc.toNat) (core0.mem.read (core0.pc.toNat + 1))) = .ok (.ldImm 0xA 0x12)) ∧
    core0.host = [] ∧ ({ core0 with host := [.step, .reset] } : State).host = .step :: [.reset] ∧
    (∃ c, (core0.setRs (.faulted .dataOutOfRange)).rs = .faulted c) ∧ (∀ c, core0.rs ≠ .faulted c) :=
  ⟨by decide, rfl, rfl, ⟨_, rfl⟩, fun _ h => by cases h⟩

theorem witness_StepPerformsHostOperation : core0.host = [] ∧
    ({ core0 with host := [.timerTick] } : State).host = .timerTick :: [] := ⟨rfl, rfl⟩

/-- PC at 0xFFF, which is odd and out of range; at 0xFFD, odd; at 0xFFE, the last address fetched from. -/
theorem witness_FetchChecksInOrder : core0.rs = .running ∧ (core0.setPc 0xFFF).pc.toNat + 1 > 0xFFF ∧
    ((core0.setPc 0xFFD).pc.toNat + 1 ≤ 0xFFF ∧ (core0.setPc 0xFFD).pc.toNat % 2 = 1) ∧
    ((core0.setPc 0xFFE).pc.toNat + 1 ≤ 0xFFF ∧ (core0.setPc 0xFFE).pc.toNat % 2 = 0) := by decide

theorem witness_InvalidWordReports : (at200 0x0FFF).rs = .running ∧ (at200 0x0FFF).fetch = .ok 0x0FFF ∧
    decode 0x0FFF = .error (.invalidOpcode 0x0FFF) := by decide

theorem witness_FaultedCoreIdles : (core0.setRs (.faulted .stackUnderflow)).rs = .faulted .stackUnderflow ∧
    HostOp.timerTick ≠ .reset ∧ ∃ t, perform .timerTick (core0.setRs (.faulted .stackUnderflow)) = .next t :=
  ⟨rfl, by decide, _, rfl⟩

/-- A waiting core, with the keys down at its STEP. -/
def waiting (ks : List KeyIdx) : State := { core0.setRs (.awaitingKey 3) with keys := down ks }

theorem witness_AwaitingStepCompletes : (waiting []).rs = .awaitingKey 3 ∧
    (∀ k, (waiting []).newlyPressed k = false) ∧ ∃ k, (waiting [0, 0xF]).newlyPressed k = true :=
  ⟨rfl, by decide, 0xF, by decide⟩

theorem witness_FatalFaultIsPrecise : (∀ c, (at200 0x00EE).rs ≠ .faulted c) ∧
    ∃ t, stepOp (at200 0x00EE) = .next t ∧ t.rs = .faulted .stackUnderflow :=
  ⟨fun _ h => (by cases h), _, next_after (by decide), by decide⟩

/-- Each cause at the first value that raises it, and no fault at the last that does not. -/
theorem witness_FaultCausesExactly : core0.rs = .running ∧
    (after (exec (.call 0x300) (core0.setStack 16 core0.stack))).rs = .faulted .stackOverflow ∧
    (after (exec .ret core0)).rs = .faulted .stackUnderflow ∧
    (after (exec (.drw 0 1 2) (core0.setI 0xFFF))).rs = .faulted .dataOutOfRange ∧
    (after (exec (.drw 0 1 1) (core0.setI 0xFFF))).rs = .running ∧
    (after (exec (.drw 0 1 0) (core0.setI 0xFFFF))).rs = .running ∧
    (after (exec (.ldB 0) (core0.setI 0xFFE))).rs = .faulted .dataOutOfRange ∧
    (after (exec (.stRegs 0xF) (core0.setI 0xFF1))).rs = .faulted .dataOutOfRange ∧
    (after (exec (.ldRegs 0) (core0.setI 0x1000))).rs = .faulted .dataOutOfRange ∧
    (after (exec (.skp 0) (core0.setReg 0 0x10))).rs = .faulted .keyIndexOutOfRange ∧
    (after (exec (.sknp 0) (core0.setReg 0 0x0F))).rs = .running := by decide

theorem witness_RefusalsExactly : refusal (perform .step State.reset) = some .stepBeforeLoad ∧
    nextInstr (((at200 0xF01E).setI 0xFF01).setReg 0 0xFF) = some (.addI 0) ∧
    refusal (perform .step (((at200 0xF01E).setI 0xFF01).setReg 0 0xFF)) = some .indexOverflow ∧
    refusal (perform .step (((at200 0xF01E).setI 0xFF00).setReg 0 0xFF)) = none ∧
    refusal (perform (.load []) core0) = some .loadWhileLoaded := by decide

theorem witness_KeyboardSampleWritten :
    (∃ t, stepOp core0 = .next t ∧ core0.rs = .running ∧ ∀ c, t.rs ≠ .faulted c) ∧
    (∃ t, stepOp (waiting [4]) = .next t ∧ (waiting [4]).rs = .awaitingKey 3 ∧ ∀ c, t.rs ≠ .faulted c) ∧
    (HostOp.timerTick ≠ .step ∧ HostOp.timerTick ≠ .reset ∧ ∃ t, perform .timerTick core0 = .next t) := by
  refine ⟨⟨_, next_after (by decide), rfl, ?_⟩, ⟨_, next_after (by decide), rfl, ?_⟩, by decide, by decide, _, rfl⟩
  · intro c
    rw [show (after (stepOp core0)).rs = .running by decide]
    exact fun h => by cases h
  · intro c
    rw [show (after (stepOp (waiting [4]))).rs = .running by decide]
    exact fun h => by cases h

theorem witness_ReturnPopsStack : core0.sp.val = 0 ∧ 0 < (core0.setStack 1 core0.stack).sp.val ∧
    0 < (core0.setStack 16 core0.stack).sp.val := by decide

theorem witness_JumpSetsPc : (0xFFF : Addr12).toNat % 2 = 1 ∧ ((0xFFD : Addr12).toNat % 2 = 1 ∧ (0xFFD : Addr12) ≠ 0xFFF) ∧
    core0.pc = zext16 (0x200 : Addr12) := by decide

theorem witness_CallPushesReturnAddress : (core0.setStack 16 core0.stack).sp.val = 16 ∧
    (core0.setStack 15 core0.stack).sp.val < 16 ∧ (0 : Fin 16).val ≠ (core0.setStack 15 core0.stack).sp.val := by decide

theorem witness_SkipOnRegisters : (1 : Height) ≠ 0 ∧ (0xF : Height) ≠ 0 := by decide

theorem witness_OffsetJumpIsExact : (after (exec (.jpV0 0xFFF) core0)).pc.toNat > 0xFFE ∧
    ((after (exec (.jpV0 0xFFD) core0)).pc.toNat ≤ 0xFFE ∧ (after (exec (.jpV0 0xFFD) core0)).pc.toNat % 2 = 1) := by decide

/-- The premise of AddSetsCarry, SubtractSetsNotBorrow, ReversedSubtractSetsNotBorrow and of both shifts' statements. -/
theorem witness_AddSetsCarry : (0xE : RegIdx) ≠ 0xF := by decide
theorem witness_SubtractSetsNotBorrow : (0xE : RegIdx) ≠ 0xF := by decide
theorem witness_ShiftRightSetsLowBit : (0xE : RegIdx) ≠ 0xF := by decide
theorem witness_ReversedSubtractSetsNotBorrow : (0xE : RegIdx) ≠ 0xF := by decide
theorem witness_ShiftLeftSetsHighBit : (0xE : RegIdx) ≠ 0xF := by decide

theorem witness_RandomByteIsMasked : (core0.setDraws [0xA7] 0).randIn = 0xA7 :: [] ∧ core0.randIn = [] := by decide

/-- The sums 0xFFFF and 0x10000. -/
theorem witness_AddToIndex :
    ((core0.setI 0xFF00).setReg 0 0xFF).i.toNat + (((core0.setI 0xFF00).setReg 0 0xFF).reg 0).toNat = 0xFFFF ∧
    ((core0.setI 0xFF01).setReg 0 0xFF).i.toNat + (((core0.setI 0xFF01).setReg 0 0xFF).reg 0).toNat > 0xFFFF := by
  decide

/-- The last glyph, with the font in place. -/
theorem witness_PointAtGlyph : (∀ j : Fin 80, core0.mem.read (0x050 + j.val) = core0.params.fontData.get j) ∧
    ((core0.setReg 0 0xF).reg 0).toNat ≤ 0xF := by decide

theorem witness_StoreDecimalDigits : ((core0.setI 0xFFD).i.toNat + 2 ≤ 0xFFF ∧ core0.mem.wf = true) ∧
    (core0.setI 0xFFE).i.toNat + 2 > 0xFFF := by decide

theorem witness_StoreRegisters : ((core0.setI 0xFF0).i.toNat + (0xF : RegIdx).val ≤ 0xFFF ∧ core0.mem.wf = true) ∧
    (0xF : RegIdx) ≤ 0xF ∧ (core0.setI 0xFF1).i.toNat + (0xF : RegIdx).val > 0xFFF := by decide

/-- P7: the two bytes stored at 0x208 and fetched there. -/
theorem witness_StoredBytesAreFetched : (0 : RegIdx).val < (1 : RegIdx).val ∧ core0.mem.wf = true ∧
    (core0.setI 0x208).i.toNat + (1 : RegIdx).val ≤ 0xFFF ∧ isNext (exec (.stRegs 1) (core0.setI 0x208)) = true ∧
    (0x208 : Word).toNat = (core0.setI 0x208).i.toNat + (0 : RegIdx).val ∧ (0x208 : Word).toNat % 2 = 0 := by decide

theorem witness_LoadRegisters : (core0.setI 0xFFF).i.toNat + (0 : RegIdx).val ≤ 0xFFF ∧ (0 : RegIdx) ≤ 0 ∧
    (core0.setI 0x1000).i.toNat + (0 : RegIdx).val > 0xFFF := by decide

/-- The last byte of memory as a sprite of one row, one row too many, and no row at all. -/
theorem witness_DrawXorsSprite : SpriteInMemory (core0.setI 0xFFF) 1 ∧ ¬ SpriteInMemory (core0.setI 0xFFF) 2 ∧
    SpriteInMemory (core0.setI 0xFFFF) 0 ∧ SpriteCovers (core0.setI 0x050) 0 1 5 3 0 ∧
    ¬ SpriteCovers (core0.setI 0x050) 0 1 5 4 0 ∧ pixel core0.disp 3 0 = false ∧
    pixel (core0.setDisp (flipPixel blankDisplay 3 0)).disp 3 0 = true := by
  refine ⟨.inr (by decide), ?_, .inl rfl, ⟨0, by decide, 3, by decide, by decide, by decide, by decide⟩, ?_, by decide,
    by decide⟩
  · rintro (h | h)
    · exact absurd h (by decide)
    · exact absurd h (by decide)
  · rintro ⟨r, hr, c, hc, hbit, hx, hy⟩
    have hV : ((core0.setI 0x050).reg 0).toNat = 0 := by decide
    have hV' : ((core0.setI 0x050).reg 1).toNat = 0 := by decide
    have hr' : r < 5 := hr
    rw [hV] at hx
    rw [hV'] at hy
    have hc4 : c = 4 := by
      have : (4 : Fin 64).val = 4 := rfl
      omega
    have hr0 : r = 0 := by
      have : (0 : Fin 32).val = 0 := rfl
      omega
    subst hc4 hr0
    exact absurd hbit (by decide)

/-- A glyph on the blank display, and a sprite of no row. -/
theorem witness_DrawTwiceRestores : (0 : RegIdx) ≠ 0xF ∧ (1 : RegIdx) ≠ 0xF ∧ SpriteInMemory (core0.setI 0x050) 5 ∧
    (∃ px py, SpriteCovers (core0.setI 0x050) 0 1 5 px py ∧ pixel (core0.setI 0x050).disp px py = false) ∧
    SpriteInMemory core0 0 ∧ ¬ ∃ px py, SpriteCovers core0 0 1 0 px py ∧ pixel core0.disp px py = false := by
  refine ⟨by decide, by decide, .inr (by decide),
    ⟨3, 0, ⟨0, by decide, 3, by decide, by decide, by decide, by decide⟩, by decide⟩, .inl rfl, ?_⟩
  rintro ⟨px, py, ⟨r, hr, -⟩, -⟩
  exact absurd hr (Nat.not_lt_zero r)

theorem witness_SkipOnKey : ((core0.setReg 0 0xF).reg 0).toNat = (0xF : KeyIdx).val ∧
    ((core0.setReg 0 0x10).reg 0).toNat > 0xF := by decide

theorem witness_WaitForKey : ((waiting [0xF]).keys.get 0xF = true ∧ (waiting [0xF]).kbPrev.get 0xF = false) ∧
    (∀ k : KeyIdx, ((waiting [5]).setKbPrev (down [5])).keys.get k = true →
      ((waiting [5]).setKbPrev (down [5])).kbPrev.get k = true) ∧
    (core0.rs = .running ∧ isNext (exec (.ldVxK 3) core0) = true) := by decide

theorem witness_OnlyNamedRegistersChange : isNext (exec (.ldImm 3 7) core0) = true ∧
    (after (exec (.ldImm 3 7) core0)).reg 3 ≠ core0.reg 3 := by decide

/-- For each piece of state, an instruction that changes it. -/
theorem witness_OnlyNamedWritersWrite : (after (exec (.ldI 5) core0)).i ≠ core0.i ∧
    (after (exec (.call 0x300) core0)).sp ≠ core0.sp ∧
    (after (exec (.ldDtVx 0) (core0.setReg 0 1))).dt ≠ core0.dt ∧
    (after (exec (.ldStVx 0) (core0.setReg 0 1))).st ≠ core0.st ∧
    pixel (after (exec .cls (core0.setDisp (flipPixel blankDisplay 3 0)))).disp 3 0 ≠
      pixel (core0.setDisp (flipPixel blankDisplay 3 0)).disp 3 0 ∧
    (after (exec (.ldB 0) ((core0.setI 0x300).setReg 0 1))).mem.read 0x302 ≠ core0.mem.read 0x302 := by decide

theorem witness_OnlyKeyInstructionsReadKeys : ¬ readsKeys .cls := id
theorem witness_OnlyRndReadsRandomSource : ¬ readsRand .cls := id
theorem witness_SoundTimerIsNeverRead : ¬ writesSt .cls ∧ writesSt (.ldStVx 0) := ⟨id, trivial⟩

/-- Slot 0 in use and stale slots that differ, an instruction that completes, and the one that can be refused. -/
theorem witness_StaleSlotsAreNeverRead :
    (∀ k : Fin 16, k.val < (core0.setStack 1 core0.stack).sp.val →
      (core0.stack.set 1 0x456).get k = (core0.setStack 1 core0.stack).stack.get k) ∧
    isNext (exec .ret (core0.setStack 1 core0.stack)) = true ∧
    refusal (exec (.addI 0) ((core0.setI 0xFFFF).setReg 0 1)) = some .indexOverflow := by decide

theorem witness_MemoryStaysCanonical : MemCanonical core0 ∧ isNext (step core0) = true :=
  ⟨⟨by decide, by decide⟩, by decide⟩

theorem core0_bounded : PcBounded core0 := by
  refine ⟨fun _ => by decide, fun k hk => absurd hk (Nat.not_lt_zero _), fun x hx => ?_⟩
  cases hx

theorem witness_PcStaysBounded : PcBounded core0 ∧ isNext (step core0) = true := ⟨core0_bounded, by decide⟩

theorem witness_ResetRestoresInitialState : core0.params.wf = true := by decide

theorem witness_LoadCopiesRom : (State.reset.rs = .unloaded ∧ (List.replicate 3584 (0 : Byte)).length ≤ 3584 ∧
      State.reset.mem.wf = true) ∧ (List.replicate 3585 (0 : Byte)).length > 3584 ∧ core0.rs ≠ .unloaded :=
  ⟨⟨rfl, by rw [List.length_replicate], Memory.initial_wf rfl⟩, by rw [List.length_replicate]; decide, by decide⟩

/-- A tick and a STEP of a jump to itself. -/
theorem witness_TicksCountDown : HostOp.reset ∉ [HostOp.timerTick, .step] ∧
    (runOps [.timerTick, .step] ((at200 0x1200).setDt 3)).isSome = true ∧
    NeverExecutes writesDt [.timerTick, .step] ((at200 0x1200).setDt 3) ∧
    NeverExecutes writesSt [.timerTick, .step] ((at200 0x1200).setDt 3) := by
  have hn : nextInstr (timerTick ((at200 0x1200).setDt 3)) = some (.jp 0x200) := by decide
  refine ⟨by decide, by decide, ⟨fun h => (by cases h), ?_⟩, ⟨fun h => (by cases h), ?_⟩⟩
  · intro t ht
    cases ht
    refine ⟨fun _ i hi => ?_, fun _ _ => trivial⟩
    rw [hn] at hi
    cases hi
    exact id
  · intro t ht
    cases ht
    refine ⟨fun _ i hi => ?_, fun _ _ => trivial⟩
    rw [hn] at hi
    cases hi
    exact id

theorem witness_SelfJumpChangesNothing : AtSelfJump (at200 0x1200) ∧ (at200 0x1200).host = [] :=
  ⟨⟨rfl, 0x200, by decide, by decide⟩, rfl⟩

end Sys2Proof.Tests
end

section
/-! RESET (70_reset_and_hazards.md R280): what the memory and KB_PREV read as after it, and O56. -/

namespace Sys2Proof.Proofs

open Sys2Proof Sys2Proof.Machine

/-- No key is down in the sample RESET leaves. -/
@[simp] theorem noKeys_get (k : KeyIdx) : noKeys.get k = false := by
  simp [noKeys, Vector.get]

/-- After RESET the font region reads as FONT_DATA, which is written over MEM_INIT (R280). -/
theorem resetOp_read_font {s : State} (hwf : s.params.wf = true) (j : Fin 80) :
    (resetOp s).mem.read (0x050 + j.val) = s.params.fontData.get j :=
  Memory.initial_font hwf j

/-- After RESET every address outside the font region reads as MEM_INIT (R280). -/
theorem resetOp_read_outside_font (s : State) (a : Nat) (ha : ¬ (0x050 ≤ a ∧ a ≤ 0x09F)) :
    (resetOp s).mem.read a = Memory.read s.params.memInit a :=
  Memory.initial_other s.params a (by simp only [fontBase]; omega)

/-- Settles O56: RESET answers `resetOp`, whose registers, timers, display, run state and report are those of
`State.initial` by definition; the font block write gives the memory. -/
theorem resetRestoresInitialState : Obligations.ResetRestoresInitialState := by
  unfold Obligations.ResetRestoresInitialState
  intro s hwf
  have hmem := resetOp_read_outside_font s
  have hfont := resetOp_read_font hwf
  have hkeys : ∀ k : KeyIdx, (resetOp s).kbPrev.get k = false := noKeys_get
  exact ⟨resetOp s, rfl, rfl, rfl, rfl, rfl, rfl, rfl, hmem, hfont, rfl, hkeys, rfl, rfl, rfl, rfl⟩

end Sys2Proof.Proofs
end

section
/-! The state an instruction leaves, said once by its shape: every claim of 10_state.md about what instructions may write
is a case analysis over these shapes. -/

namespace Sys2Proof.Proofs

open Sys2Proof Sys2Proof.Machine Sys2Proof.Safety

/-- The shapes of a next state of `exec`. Where only some instructions take a shape, the constructor names the one
instruction or carries its permission to write. -/
inductive Effect (s : State) : Instr → State → Prop where
  /-- The fatal faults (60_exceptions.md R240). -/
  | fault (i c) : Effect s i (s.setRs (.faulted c))
  /-- FX0A with no key newly pressed (45_timers_keys.md R225). -/
  | wait (x) : Effect s (.ldVxK x) (s.setRs (.awaitingKey x))
  /-- Loads, logic and 7XNN: one register, no flag (42_register_alu.md R163). -/
  | result {i} (x b) (hx : writesReg x i) : Effect s i (s.writeResult x b)
  /-- CXNN and a completed FX0A: one register, from a draw. -/
  | drawn {i} (r n x b) (hx : writesReg x i) : Effect s i ((s.setDraws r n).writeResult x b)
  /-- Arithmetic and shifts: one register, then VF (10_state.md R22). -/
  | flagged {i} (x b f) (hx : writesReg x i) (hf : writesReg 0xF i) : Effect s i (s.writeWithFlag x b f)
  /-- 1NNN and BNNN, whose furthest target is 0x10FE (41_control_flow.md R131, R137). -/
  | jump (i a) (ha : a.toNat ≤ 0x10FE) : Effect s i (s.setPc a)
  /-- The skips (R138). -/
  | skip (i c) : Effect s i (s.skipIf c)
  /-- 2NNN with SP below 16 (R132). -/
  | call (nnn) (h : s.sp.val < 16) : Effect s (.call nnn)
      ((s.setStack ⟨s.sp.val + 1, by omega⟩ (s.stack.set s.sp.val (s.pc + 2))).setPc (zext16 nnn))
  /-- 00EE with SP above 0 (R130). -/
  | ret (h : 0 < s.sp.val) : Effect s .ret
      ((s.setStack ⟨s.sp.val - 1, by omega⟩ s.stack).setPc (s.stack[s.sp.val - 1]'(by omega)))
  /-- ANNN, FX1E and FX29 (10_state.md R24). -/
  | index {i} (a) (hi : writesIndex s.params i) : Effect s i (s.setI a).advance
  /-- FX15 (R32). -/
  | delay {i} (b) (hi : writesDt i) : Effect s i (s.setDt b).advance
  /-- FX18 (R33). -/
  | sound {i} (b) (hi : writesSt i) : Effect s i (s.setSt b).advance
  /-- 00E0 (44_display.md R200). -/
  | clear {i} (d) (hi : writesDisplay i) : Effect s i (s.setDisp d).advance
  /-- DXYN with its sprite in memory (R201). -/
  | draw (x y n d f) : Effect s (.drw x y n) ((s.setDisp d).setReg 0xF f).advance
  /-- FX33 with its bytes in memory (43_index_memory.md R183). -/
  | store {i} (m) (hi : writesMemory i) : Effect s i (s.setMem m).advance
  /-- FX55 with its bytes in memory (R184). -/
  | storeBlock (x m) : Effect s (.stRegs x) ((s.setMem m).setI (s.indexAfterBlock x)).advance
  /-- FX65 with its bytes in memory (R185). -/
  | loadBlock (x) : Effect s (.ldRegs x) ((s.setV (s.loadedBlock x)).setI (s.indexAfterBlock x)).advance

/-- An operation that is checked first completes or faults (20_memory.md R72). -/
theorem next_of_checked {s t u : State} {e : Fault} {p : Prop} [Decidable p]
    (h : (if p then .next u else s.fatal e : Result) = .next t) : t = u ∨ t = s.setRs (.faulted e) := by
  split at h
  · cases h; exact .inl rfl
  · exact .inr (State.fatal_eq h)

/-- EX9E and EXA1 skip, or fault on a register that names no key (45_timers_keys.md R223, R224). -/
theorem next_of_keySkip {s t : State} {k? : Option KeyIdx} {c : KeyIdx → Bool} {e : Fault} {i : Instr}
    (h : (match k? with | some k => .next (s.skipIf (c k)) | none => s.fatal e : Result) = .next t) : Effect s i t := by
  cases k? with
  | some k => cases h; exact .skip _ _
  | none => rw [State.fatal_eq h]; exact .fault _ _

theorem exec_effect {i : Instr} {s t : State} (h : exec i s = .next t) : Effect s i t := by
  cases i with
  | cls => cases h; exact .clear _ trivial
  | ret =>
    simp only [exec, execRet] at h
    by_cases h0 : 0 < s.sp.val
    · rw [State.pop_of_pos h0] at h; cases h; exact .ret h0
    · rw [State.pop_empty h0] at h; cases h; exact .fault _ _
  | jp nnn =>
    cases h
    exact .jump _ _ (by have := nnn.isLt; rw [zext16_toNat_addr]; omega)
  | call nnn =>
    simp only [exec, execCall] at h
    by_cases h0 : s.sp.val < 16
    · rw [State.push_of_lt h0] at h; cases h; exact .call nnn h0
    · rw [State.push_full h0] at h; cases h; exact .fault _ _
  | jpV0 nnn =>
    cases h
    exact .jump _ _ (by have := nnn.isLt; have := (s.reg 0).isLt; rw [offsetTarget_toNat]; omega)
  | seImm | sneImm | seReg | sneReg => cases h; exact .skip _ _
  | skp x => exact next_of_keySkip (c := s.keys.get) h
  | sknp x => exact next_of_keySkip (c := fun k => !s.keys.get k) h
  | ldImm | addImm | ldReg | orReg | andReg | xorReg | ldVxDt => cases h; exact .result _ _ rfl
  | addReg | subReg | shr | subn | shl => cases h; exact .flagged _ _ _ (.inl rfl) (.inr rfl)
  | rnd x nn =>
    cases h
    obtain ⟨r, n, hr⟩ := s.drawRand_state
    rw [hr]
    exact .drawn _ _ _ _ rfl
  | ldVxK x =>
    simp only [exec, execLdVxK] at h
    rcases s.takeKey_cases x with ⟨hk, -⟩ | ⟨k, -, hk⟩ <;> rw [hk] at h <;> cases h
    · exact .wait x
    · exact .drawn _ _ _ _ rfl
  | ldI | ldF => cases h; exact .index _ trivial
  | addI x =>
    simp only [exec, execAddI] at h
    split at h <;> cases h
    exact .index _ trivial
  | ldDtVx x => cases h; exact .delay _ trivial
  | ldStVx x => cases h; exact .sound _ trivial
  | drw x y n =>
    rcases next_of_checked h with rfl | rfl
    · exact .draw _ _ _ _ _
    · exact .fault _ _
  | ldB x =>
    rcases next_of_checked h with rfl | rfl
    · exact .store _ trivial
    · exact .fault _ _
  | stRegs x =>
    rcases next_of_checked h with rfl | rfl
    · exact .storeBlock _ _
    · exact .fault _ _
  | ldRegs x =>
    rcases next_of_checked h with rfl | rfl
    · exact .loadBlock _
    · exact .fault _ _

end Sys2Proof.Proofs
end

section
/-! What instructions may write (10_state.md R21 to R39, 20_memory.md R62): O46 and O47. -/

namespace Sys2Proof.Proofs

open Sys2Proof Sys2Proof.Machine Sys2Proof.Safety

theorem setReg_changes {s : State} {x r : RegIdx} {b : Byte} (h : (s.setReg x b).reg r ≠ s.reg r) : r = x := by
  by_contra hr
  exact h (by rw [State.setReg_reg, if_neg hr])

theorem writeWithFlag_changes {s : State} {x r : RegIdx} {b f : Byte}
    (h : (s.writeWithFlag x b f).reg r ≠ s.reg r) : r = x ∨ r = 0xF := by
  by_contra hr
  rw [not_or] at hr
  exact h (by rw [State.writeWithFlag_reg, if_neg hr.2, if_neg hr.1])

theorem loadedBlock_changes {s : State} {x r : RegIdx} (h : (s.loadedBlock x).get r ≠ s.reg r) : r ≤ x := by
  by_contra hr
  exact h (by rw [State.loadedBlock_get, if_neg hr])

theorem indexAfterBlock_changes {s : State} {x : RegIdx} (h : s.indexAfterBlock x ≠ s.i) :
    s.params.indexAdvance = .advance := by
  cases ha : s.params.indexAdvance with
  | advance => rfl
  | unchanged => exact absurd (by simp only [State.indexAfterBlock, ha]) h

theorem Effect.reg_changes {i : Instr} {s t : State} {r : RegIdx} (he : Effect s i t) (h : t.reg r ≠ s.reg r) :
    writesReg r i := by
  cases he with
  | result x b hx => rw [setReg_changes h]; exact hx
  | drawn _ _ x b hx => rw [setReg_changes (s := s) h]; exact hx
  | flagged x b f hx hf =>
    rcases writeWithFlag_changes h with rfl | rfl
    · exact hx
    · exact hf
  | draw x y n d f => exact setReg_changes (s := s) h
  | loadBlock x => exact loadedBlock_changes h
  | _ => simp at h

theorem Effect.index_changes {i : Instr} {s t : State} (he : Effect s i t) (h : t.i ≠ s.i) :
    writesIndex s.params i := by
  cases he with
  | index a hi => exact hi
  | storeBlock x m => exact indexAfterBlock_changes h
  | loadBlock x => exact indexAfterBlock_changes h
  | _ => simp at h

theorem Effect.stack_changes {i : Instr} {s t : State} (he : Effect s i t) (h : t.sp ≠ s.sp ∨ t.stack ≠ s.stack) :
    writesStack i := by
  cases he with
  | call => trivial
  | ret => trivial
  | _ => simp at h

theorem Effect.dt_changes {i : Instr} {s t : State} (he : Effect s i t) (h : t.dt ≠ s.dt) : writesDt i := by
  cases he with
  | delay b hi => exact hi
  | _ => simp at h

theorem Effect.st_changes {i : Instr} {s t : State} (he : Effect s i t) (h : t.st ≠ s.st) : writesSt i := by
  cases he with
  | sound b hi => exact hi
  | _ => simp at h

theorem Effect.disp_changes {i : Instr} {s t : State} (he : Effect s i t) (h : t.disp ≠ s.disp) :
    writesDisplay i := by
  cases he with
  | clear d hi => exact hi
  | draw => trivial
  | _ => simp at h

theorem Effect.mem_changes {i : Instr} {s t : State} {a : Nat} (he : Effect s i t)
    (h : t.mem.read a ≠ s.mem.read a) : writesMemory i := by
  cases he with
  | store m hi => exact hi
  | storeBlock => trivial
  | _ => simp at h

/-- Settles O46, by the shape of the state the instruction leaves. -/
theorem onlyNamedRegistersChange : Obligations.OnlyNamedRegistersChange := by
  unfold Obligations.OnlyNamedRegistersChange
  intro i s t r h hr
  exact (exec_effect h).reg_changes hr

/-- Settles O47, by the shape of the state the instruction leaves, one field at a time. -/
theorem onlyNamedWritersWrite : Obligations.OnlyNamedWritersWrite := by
  unfold Obligations.OnlyNamedWritersWrite
  intro i s t h
  have he := exec_effect h
  exact ⟨he.index_changes, he.stack_changes, he.dt_changes, he.st_changes, he.disp_changes,
    fun ⟨_, ha⟩ => he.mem_changes ha⟩

end Sys2Proof.Proofs
end

section
/-! PC never wraps (10_state.md R28): O53. -/

namespace Sys2Proof.Proofs

open Sys2Proof Sys2Proof.Machine Sys2Proof.Safety

/-- The return addresses below SP are at most 0x1000: the second clause of `PcBounded`. -/
def ReturnsBounded (s : State) : Prop := ∀ k : Fin 16, k.val < s.sp.val → (s.stack.get k).toNat ≤ 0x1000

/-- Where no FX0A waits, `PcBounded` is its first two clauses. -/
theorem pcBounded_of_not_waiting {t : State} (hrs : ∀ x, t.rs ≠ .awaitingKey x) (hpc : t.pc.toNat ≤ 0x10FE)
    (hst : ReturnsBounded t) : PcBounded t :=
  ⟨fun _ => hpc, hst, fun x hx => absurd hx (hrs x)⟩

/-- A Running core that got to `a` with its stack as it was. -/
theorem pcBounded_of_running {s t : State} {a : Word} (hst : ReturnsBounded s) (ha : a.toNat ≤ 0x10FE)
    (hrs : t.rs = .running) (hpc : t.pc = a) (hsp : t.sp = s.sp) (hstack : t.stack = s.stack) : PcBounded t := by
  refine pcBounded_of_not_waiting (fun x hx => by cases hrs.symm.trans hx) (hpc ▸ ha) fun k hk => ?_
  rw [hsp] at hk
  rw [hstack]
  exact hst k hk

/-- PC + 2 and PC + 4 are exact at any address a fetch accepts. -/
theorem pc_add_toNat {a k : Word} (ha : a.toNat ≤ 0xFFE) (hk : k.toNat ≤ 4) : (a + k).toNat = a.toNat + k.toNat := by
  rw [BitVec.toNat_add]
  omega

/-- A push keeps the return addresses bounded when the pushed one is (41_control_flow.md R132). -/
theorem returnsBounded_push {s : State} (hst : ReturnsBounded s) (h : s.sp.val < 16) {a : Word}
    (ha : a.toNat ≤ 0x1000) :
    ReturnsBounded (s.setStack ⟨s.sp.val + 1, by omega⟩ (s.stack.set s.sp.val a)) := by
  intro k hk
  have hk' : k.val < s.sp.val + 1 := hk
  rw [State.setStack_stack, Vector.get_eq_getElem, Vector.getElem_set]
  split
  · exact ha
  · exact hst k (by omega)

/-- An instruction fetched at an address of at most 0xFFE keeps the bounds (10_state.md R28). -/
theorem exec_pcBounded {i : Instr} {s t : State} (hrs : s.rs = .running) (hpc : s.pc.toNat ≤ 0xFFE)
    (hst : ReturnsBounded s) (h : exec i s = .next t) : PcBounded t := by
  have hrun : ∀ x, s.rs ≠ .awaitingKey x := fun x hx => by rw [hrs] at hx; cases hx
  have hnext : (s.pc + 2).toNat ≤ 0x1000 := by rw [pc_add_toNat hpc (by decide)]; simpa using hpc
  have hskip : (s.pc + 4).toNat ≤ 0x1002 := by rw [pc_add_toNat hpc (by decide)]; simpa using hpc
  cases exec_effect h with
  | fault c => exact pcBounded_of_not_waiting (fun x hx => by cases hx) (hpc.trans (by decide)) hst
  | wait x => exact ⟨fun _ => hpc.trans (by decide), hst, fun _ _ => hpc⟩
  | jump i a ha => exact pcBounded_of_not_waiting hrun ha hst
  | skip i c =>
    refine pcBounded_of_not_waiting hrun ?_ hst
    rw [State.skipIf_target]
    split
    · exact hskip.trans (by decide)
    · exact hnext.trans (by decide)
  | call nnn hsp =>
    refine pcBounded_of_not_waiting hrun ?_ (returnsBounded_push hst hsp hnext)
    have := nnn.isLt
    rw [State.setPc_pc, zext16_toNat_addr]
    omega
  | ret hsp =>
    have hpop : ∀ k : Fin 16, k.val < s.sp.val - 1 → k.val < s.sp.val := fun k hk => by omega
    exact pcBounded_of_not_waiting hrun ((hst ⟨s.sp.val - 1, by omega⟩ (Nat.sub_one_lt_of_lt hsp)).trans (by decide))
      fun k hk => hst k (hpop k hk)
  | _ => exact pcBounded_of_running hst (hnext.trans (by decide)) (by simp [hrs]) (by simp) (by simp) (by simp)

theorem sampleKeys_pcBounded {s : State} (h : PcBounded s) : PcBounded s.sampleKeys := by
  rcases s.sampleKeys_cases with hs | hs <;> rw [hs] <;> exact h

/-- A waiting STEP keeps the bounds: the FX0A it may complete was fetched from PC (45_timers_keys.md R226). -/
theorem awaitKey_pcBounded {s : State} {x : RegIdx} (hb : PcBounded s) (hrs : s.rs = .awaitingKey x) :
    PcBounded (s.awaitKey x) := by
  obtain ⟨-, hst, hwait⟩ := id hb
  have hnext : (s.pc + 2).toNat ≤ 0x1000 := by
    rw [pc_add_toNat (hwait x hrs) (by decide)]; simpa using hwait x hrs
  rcases s.awaitKey_cases x with ⟨h, -⟩ | ⟨k, -, h⟩ <;> rw [h]
  · exact hb
  · exact pcBounded_of_not_waiting (fun y hy => by cases hy) (hnext.trans (by decide)) hst

theorem stepOp_pcBounded {s t : State} (hb : PcBounded s) (h : stepOp s = .next t) : PcBounded t := by
  obtain ⟨hpc, hst, -⟩ := id hb
  have hc := stepOp_cases s
  rw [h] at hc
  cases hc with
  | faulted c hrs => exact hb
  | awaiting x hrs => exact sampleKeys_pcBounded (awaitKey_pcBounded (s := s.setReport none) hb hrs)
  | fetchFault c hrs hf =>
    exact pcBounded_of_not_waiting (fun x hx => by cases hx) (hpc (by rw [hrs]; exact RunState.noConfusion)) hst
  | invalid w e hrs hf hd =>
    obtain ⟨hfetch, -, -⟩ := (s.fetch_ok_iff w).1 hf
    have hnext : (s.pc + 2).toNat = s.pc.toNat + 2 := pc_add_toNat (by omega) (by decide)
    exact sampleKeys_pcBounded (pcBounded_of_not_waiting (fun x hx => by cases hrs.symm.trans hx)
      (show (s.pc + 2).toNat ≤ 0x10FE by omega) hst)
  | executed w i u hrs hf hd hx =>
    obtain ⟨hfetch, -, -⟩ := (s.fetch_ok_iff w).1 hf
    exact sampleKeys_pcBounded (exec_pcBounded (s := s.setReport none) hrs (show s.pc.toNat ≤ 0xFFE by omega) hst hx)
  | stopped w i r hrs hf hd hx hn => exact absurd rfl (hn t)

theorem loadOp_pcBounded {rom : List Byte} {s t : State} (hb : PcBounded s) (h : loadOp rom s = .next t) :
    PcBounded t := by
  obtain ⟨-, hst, -⟩ := id hb
  unfold loadOp at h
  split at h
  · split at h <;> cases h
    · exact pcBounded_of_not_waiting (fun x hx => by cases hx) (by decide : (0x200 : Word).toNat ≤ 0x10FE) hst
    · exact hb
  · cases h

/-- Every operation of the host keeps the bounds; RESET empties the stack and unloads the core. -/
theorem perform_pcBounded {op : HostOp} {s t : State} (hb : PcBounded s) (h : perform op s = .next t) :
    PcBounded t := by
  cases op with
  | step => exact stepOp_pcBounded hb h
  | load rom => exact loadOp_pcBounded hb h
  | reset =>
    cases h
    exact ⟨fun hl => absurd rfl hl, fun k hk => absurd hk (Nat.not_lt_zero _), fun x hx => by cases hx⟩
  | timerTick | writeKeys | supplyRand => cases h; exact hb

/-- Settles O53, by the operation the step performs. -/
theorem pcStaysBounded : Obligations.PcStaysBounded := by
  unfold Obligations.PcStaysBounded
  intro s t hb h
  cases hh : s.host with
  | nil => rw [step_nil hh] at h; exact stepOp_pcBounded hb h
  | cons op rest => rw [step_cons hh] at h; exact perform_pcBounded (s := { s with host := rest }) hb h

end Sys2Proof.Proofs
end

section
/-! Noninterference: fields an instruction does not read (10_state.md R30, R33, R40, R41): O48 to O51. -/

namespace Sys2Proof.Proofs

open Sys2Proof Sys2Proof.Machine Sys2Proof.Safety

/-- Other values for the four parts of the state that few instructions read; `none` leaves a part as it is. -/
structure Overlay where
  keys : Option Keys := none
  randIn : Option (List Byte) := none
  st : Option Byte := none
  stack : Option (Vector Word 16) := none

/-- The state with the overlay's values in place. -/
def Overlay.on (o : Overlay) (s : State) : State :=
  { s with
    keys := o.keys.getD s.keys
    randIn := o.randIn.getD s.randIn
    st := o.st.getD s.st
    stack := o.stack.getD s.stack }

/-- An overlay on parts of the state that an instruction does not use goes through the instruction unchanged. -/
theorem exec_overlay (o : Overlay) (i : Instr) (s : State) (hk : readsKeys i → o.keys = none)
    (hr : readsRand i → o.randIn = none) (ht : writesSt i → o.st = none) (hs : writesStack i → o.stack = none) :
    exec i (o.on s) = mapNext o.on (exec i s) := by
  obtain ⟨keys, randIn, st, stack⟩ := o
  cases i with
  | ret =>
    obtain rfl : stack = none := hs trivial
    by_cases h : 0 < s.sp.val
    · simp only [exec, execRet, State.pop_of_pos h, State.pop_of_pos (s := Overlay.on _ s) h]; rfl
    · simp only [exec, execRet, State.pop_empty h, State.pop_empty (s := Overlay.on _ s) h]; rfl
  | call nnn =>
    obtain rfl : stack = none := hs trivial
    by_cases h : s.sp.val < 16
    · simp only [exec, execCall, State.push_of_lt h, State.push_of_lt (s := Overlay.on _ s) h]; rfl
    · simp only [exec, execCall, State.push_full h, State.push_full (s := Overlay.on _ s) h]; rfl
  | rnd x nn =>
    obtain rfl : randIn = none := hr trivial
    have hin : (Overlay.on ⟨keys, none, st, stack⟩ s).randIn = s.randIn := rfl
    cases h : s.randIn with
    | nil => simp only [exec, execRnd, State.drawRand_free h, State.drawRand_free (hin.trans h)]; rfl
    | cons b bs => simp only [exec, execRnd, State.drawRand_injected h, State.drawRand_injected (hin.trans h)]; rfl
  | skp x =>
    obtain rfl : keys = none := hk trivial
    simp only [exec, execSkp, show (Overlay.on _ s).keyOperand x = s.keyOperand x from rfl]
    cases s.keyOperand x <;> rfl
  | sknp x =>
    obtain rfl : keys = none := hk trivial
    simp only [exec, execSknp, show (Overlay.on _ s).keyOperand x = s.keyOperand x from rfl]
    cases s.keyOperand x <;> rfl
  | ldVxK x =>
    obtain rfl : keys = none := hk trivial
    simp only [exec, execLdVxK, State.takeKey, show (Overlay.on ⟨none, randIn, st, stack⟩ s).newKeys = s.newKeys from rfl]
    cases s.newKeys <;> rfl
  | ldStVx x =>
    obtain rfl : st = none := ht trivial
    rfl
  | addI x => simp only [exec, execAddI, apply_ite (mapNext _)]; rfl
  | drw x y n => simp only [exec, execDrw, apply_ite (mapNext _)]; rfl
  | ldB x => simp only [exec, execLdB, apply_ite (mapNext _)]; rfl
  | stRegs x => simp only [exec, execStRegs, apply_ite (mapNext _)]; rfl
  | ldRegs x =>
    simp only [exec, execLdRegs, apply_ite (mapNext _),
      show (Overlay.on ⟨keys, randIn, st, stack⟩ s).loadedBlock x = s.loadedBlock x from rfl]
    generalize s.loadedBlock x = b
    rfl
  | cls | jp | seImm | sneImm | seReg | ldImm | addImm | ldReg | orReg | andReg | xorReg | addReg | subReg | shr | subn
  | shl | sneReg | ldI | jpV0 | ldVxDt | ldDtVx | ldF => rfl

/-- Settles O48: other keyboard lines are an overlay. -/
theorem onlyKeyInstructionsReadKeys : Obligations.OnlyKeyInstructionsReadKeys := by
  unfold Obligations.OnlyKeyInstructionsReadKeys
  intro i s k hi
  exact exec_overlay { keys := some k } i s (fun h => absurd h hi) (fun _ => rfl) (fun _ => rfl) (fun _ => rfl)

/-- Settles O49: other injected bytes are an overlay. -/
theorem onlyRndReadsRandomSource : Obligations.OnlyRndReadsRandomSource := by
  unfold Obligations.OnlyRndReadsRandomSource
  intro i s r hi
  exact exec_overlay { randIn := some r } i s (fun _ => rfl) (fun h => absurd h hi) (fun _ => rfl) (fun _ => rfl)

/-- Settles O50: another ST is an overlay, and FX18 writes over it. -/
theorem soundTimerIsNeverRead : Obligations.SoundTimerIsNeverRead := by
  unfold Obligations.SoundTimerIsNeverRead
  intro i s b
  constructor
  · intro hi
    exact exec_overlay { st := some b } i s (fun _ => rfl) (fun _ => rfl) (fun h => absurd h hi) (fun _ => rfl)
  · intro hi
    cases i with
    | ldStVx x => rfl
    | _ => exact hi.elim

/-- Two stacks hold the same return addresses: they agree on every slot below `n`. -/
def AgreeBelow (n : Nat) (w w' : Vector Word 16) : Prop := ∀ k : Fin 16, k.val < n → w.get k = w'.get k

/-- A push writes the first slot the stacks may differ in. -/
theorem agreeBelow_push {n : Nat} {w w' : Vector Word 16} (h : AgreeBelow n w w') (hn : n < 16) (a : Word) :
    AgreeBelow (n + 1) (w.set n a) (w'.set n a) := by
  intro k hk
  simp only [Vector.get_eq_getElem, Vector.getElem_set]
  split
  · rfl
  · exact h k (by omega)

/-- 2NNN pushes on either stack, or overflows on both (41_control_flow.md R132). -/
theorem execCall_staleSlots {nnn : Addr12} {s t : State} {w : Vector Word 16} (hw : AgreeBelow s.sp.val w s.stack)
    (h : exec (.call nnn) s = .next t) :
    ∃ w', exec (.call nnn) { s with stack := w } = .next { t with stack := w' } ∧ AgreeBelow t.sp.val w' t.stack := by
  by_cases h0 : s.sp.val < 16
  · simp only [exec, execCall, State.push_of_lt h0] at h
    cases h
    refine ⟨w.set s.sp.val (s.pc + 2), ?_, agreeBelow_push hw h0 _⟩
    simp only [exec, execCall, State.push_of_lt (s := { s with stack := w }) h0]
    rfl
  · simp only [exec, execCall, State.push_full h0] at h
    cases h
    refine ⟨w, ?_, hw⟩
    simp only [exec, execCall, State.push_full (s := { s with stack := w }) h0]
    rfl

/-- 00EE pops a slot below SP, on which the stacks agree, or underflows on both (R130). -/
theorem execRet_staleSlots {s t : State} {w : Vector Word 16} (hw : AgreeBelow s.sp.val w s.stack)
    (h : exec .ret s = .next t) :
    ∃ w', exec .ret { s with stack := w } = .next { t with stack := w' } ∧ AgreeBelow t.sp.val w' t.stack := by
  by_cases h0 : 0 < s.sp.val
  · simp only [exec, execRet, State.pop_of_pos h0] at h
    cases h
    have htop : w[s.sp.val - 1] = s.stack[s.sp.val - 1] := hw ⟨s.sp.val - 1, by omega⟩ (Nat.sub_one_lt_of_lt h0)
    refine ⟨w, ?_, fun k hk => hw k (Nat.lt_of_lt_of_le hk (Nat.sub_le _ _))⟩
    simp only [exec, execRet, State.pop_of_pos (s := { s with stack := w }) h0, htop]
    rfl
  · simp only [exec, execRet, State.pop_empty h0] at h
    cases h
    refine ⟨w, ?_, hw⟩
    simp only [exec, execRet, State.pop_empty (s := { s with stack := w }) h0]
    rfl

/-- An instruction that does not touch the stack keeps whatever the slots hold. -/
theorem exec_staleSlots_of_not_writesStack {i : Instr} {s t : State} {w : Vector Word 16} (hi : ¬ writesStack i)
    (hw : AgreeBelow s.sp.val w s.stack) (h : exec i s = .next t) :
    ∃ w', exec i { s with stack := w } = .next { t with stack := w' } ∧ AgreeBelow t.sp.val w' t.stack := by
  obtain ⟨hsp, hstack⟩ : t.sp = s.sp ∧ t.stack = s.stack := by
    simpa only [ne_eq, not_or, not_not] using mt (exec_effect h).stack_changes hi
  refine ⟨w, ?_, by rw [hsp, hstack]; exact hw⟩
  have ho := exec_overlay { stack := some w } i s (fun _ => rfl) (fun _ => rfl) (fun _ => rfl) (fun h => absurd h hi)
  rw [h] at ho
  exact ho

/-- 2NNN and 00EE complete or fault: neither is ever refused. -/
theorem exec_next_of_writesStack {i : Instr} (s : State) (hi : writesStack i) : ∃ t, exec i s = .next t := by
  cases i with
  | call nnn =>
    simp only [exec, execCall]
    split
    · exact ⟨_, rfl⟩
    · exact ⟨_, rfl⟩
  | ret =>
    simp only [exec, execRet]
    split
    · exact ⟨_, rfl⟩
    · exact ⟨_, rfl⟩
  | _ => exact hi.elim

/-- A refusal does not depend on the stack. -/
theorem exec_refused_staleSlots {i : Instr} {s : State} {r : Refusal} (w : Vector Word 16)
    (h : exec i s = .refused r) : exec i { s with stack := w } = .refused r := by
  have hi : ¬ writesStack i := fun hi => by
    obtain ⟨t, ht⟩ := exec_next_of_writesStack s hi
    cases h.symm.trans ht
  have ho := exec_overlay { stack := some w } i s (fun _ => rfl) (fun _ => rfl) (fun _ => rfl) (fun h => absurd h hi)
  rw [h] at ho
  exact ho

/-- Settles O51, by whether the instruction touches the stack. -/
theorem staleSlotsAreNeverRead : Obligations.StaleSlotsAreNeverRead := by
  unfold Obligations.StaleSlotsAreNeverRead
  intro i s w hw
  refine ⟨fun t h => ?_, fun r h => exec_refused_staleSlots w h⟩
  cases i with
  | call nnn => exact execCall_staleSlots hw h
  | ret => exact execRet_staleSlots hw h
  | _ => exact exec_staleSlots_of_not_writesStack id hw h

end Sys2Proof.Proofs
end

section
/-! The random draw (42_register_alu.md R161), the host's operations (10_state.md R43) and power-on (R45): O32, O7, O54
and O55. -/

namespace Sys2Proof.Proofs

open Sys2Proof Sys2Proof.Machine Sys2Proof.Safety

/-- Settles O32: the result is written after the draw, which changes only the Random Source. -/
theorem randomByteIsMasked : Obligations.RandomByteIsMasked := by
  unfold Obligations.RandomByteIsMasked
  intro x nn s
  have hself (u : State) (b : Byte) : (u.writeResult x b).reg x = b := by rw [State.writeResult_reg, if_pos rfl]
  refine ⟨rfl, s.drawRand.2.writeResult x (s.drawRand.1 &&& nn), rfl, ?_, ?_, ?_⟩
  · intro b bs h
    rw [State.drawRand_injected h]
    exact ⟨hself _ _, rfl, rfl⟩
  · intro h
    rw [State.drawRand_free h]
    exact ⟨hself _ _, rfl, rfl⟩
  · obtain ⟨r, n, hd⟩ := s.drawRand_state
    rw [hd]
    refine ⟨rfl, fun k hk => ?_, fun _ => rfl, rfl, ⟨rfl, rfl⟩, ⟨rfl, rfl⟩, rfl, rfl, ⟨rfl, rfl, rfl⟩, rfl, rfl, rfl⟩
    rw [State.writeResult_reg, if_neg hk]
    rfl

/-- Settles O7. -/
theorem stepPerformsHostOperation : Obligations.StepPerformsHostOperation := by
  unfold Obligations.StepPerformsHostOperation
  intro s
  exact ⟨step_nil, fun _ _ => step_cons, fun _ => rfl, fun _ => rfl⟩

/-- The memory of the reset state lists nothing: its font is what an unlisted address reads as (R45). -/
theorem reset_mem : State.reset.mem = [] := by
  rw [State.reset, State.initial, Memory.initial_reference]

/-- Settles O54: the reference parameters list no byte of MEM_INIT, and the core is Unloaded with an empty stack. -/
theorem resetMeetsInvariants : Obligations.ResetMeetsInvariants := by
  unfold Obligations.ResetMeetsInvariants
  exact ⟨⟨by rw [reset_mem]; rfl, rfl⟩,
    fun h => absurd rfl h, fun k hk => absurd hk (Nat.not_lt_zero _), fun x hx => by cases hx⟩

@[simp] theorem pixel_blankDisplay (px : Fin 64) (py : Fin 32) : pixel blankDisplay px py = false := by
  simp [pixel, blankDisplay, Vector.get_eq_getElem]

/-- The memory of the reset state reads as MEM_INIT, all zero outside the font (10_state.md R45). -/
theorem reset_read_outside_font (a : Nat) (ha : ¬ (0x050 ≤ a ∧ a < 0x0A0)) : State.reset.mem.read a = 0 := by
  rw [reset_mem, Memory.read_nil]
  exact dif_neg ha

/-- Settles O55. -/
theorem powerOnState : Obligations.PowerOnState := by
  unfold Obligations.PowerOnState
  have hv (r : RegIdx) : State.reset.reg r = 0 := Vector.getElem_replicate r.isLt
  have hstack (k : Fin 16) : State.reset.stack.get k = 0 := Vector.getElem_replicate k.isLt
  exact ⟨rfl, rfl, rfl, noKeys_get, reset_mem, Memory.initial_font rfl, reset_read_outside_font, hv, rfl,
    rfl, rfl, rfl, hstack, pixel_blankDisplay⟩

end Sys2Proof.Proofs
end

section
/-! The memory (20_memory.md R60, R64, R75): every operation keeps it canonical, and the fetch reads what FX55 stored:
O52, O38 and O8. -/

namespace Sys2Proof.Proofs

open Sys2Proof Sys2Proof.Machine Sys2Proof.Safety

/-- An operation that is checked first completes when its check holds, and faults otherwise (20_memory.md R72). -/
theorem next_of_checked_cases {s t u : State} {e : Fault} {p : Prop} [Decidable p]
    (h : (if p then .next u else s.fatal e : Result) = .next t) : (p ∧ t = u) ∨ (¬ p ∧ t = s.setRs (.faulted e)) := by
  split at h
  next hp => cases h; exact .inl ⟨hp, rfl⟩
  next hp => exact .inr ⟨hp, State.fatal_eq h⟩

/-- A block write that passes the range check of R72 keeps the canonical form. -/
theorem writeBytes_wf_of_inMemory {m : Memory} {a : Nat} {bs : List Byte} (h : m.wf = true)
    (hin : inMemory a bs.length = true) : (m.writeBytes a bs).wf = true := by
  rcases (inMemory_iff _ _).1 hin with h0 | hle
  · rw [List.length_eq_zero_iff.1 h0]; exact h
  · exact Memory.writeBytes_wf h bs a hle

/-- Only FX33 and FX55 change the memory, down to its list of cells (43_index_memory.md R183, R184). -/
theorem Effect.mem_eq {i : Instr} {s t : State} (he : Effect s i t) (hi : ¬ writesMemory i) : t.mem = s.mem := by
  cases he with
  | store m hw => exact absurd hw hi
  | storeBlock x m => exact absurd trivial hi
  | _ => rfl

/-- The two stores check their whole block before they write it (43_index_memory.md R183, R184). -/
theorem exec_mem_wf {i : Instr} {s t : State} (hwf : s.mem.wf = true) (h : exec i s = .next t) : t.mem.wf = true := by
  cases i with
  | ldB x =>
    rcases next_of_checked_cases h with ⟨hin, rfl⟩ | ⟨-, rfl⟩
    · exact writeBytes_wf_of_inMemory hwf hin
    · exact hwf
  | stRegs x =>
    rcases next_of_checked_cases h with ⟨hin, rfl⟩ | ⟨-, rfl⟩
    · exact writeBytes_wf_of_inMemory hwf (by rwa [State.regBlock_length])
    · exact hwf
  | _ => rw [(exec_effect h).mem_eq id]; exact hwf

theorem exec_memCanonical {i : Instr} {s t : State} (hc : MemCanonical s) (h : exec i s = .next t) : MemCanonical t := by
  obtain ⟨hmem, hpar⟩ := hc
  exact ⟨exec_mem_wf hmem h, by rw [(exec_surroundings h).params]; exact hpar⟩

theorem sampleKeys_memCanonical {s : State} (hc : MemCanonical s) : MemCanonical s.sampleKeys := by
  rcases s.sampleKeys_cases with hs | hs <;> rw [hs] <;> exact hc

theorem awaitKey_memCanonical {s : State} (x : RegIdx) (hc : MemCanonical s) : MemCanonical (s.awaitKey x) := by
  rcases s.awaitKey_cases x with ⟨h, -⟩ | ⟨k, -, h⟩ <;> rw [h] <;> exact hc

theorem stepOp_memCanonical {s t : State} (hc : MemCanonical s) (h : stepOp s = .next t) : MemCanonical t := by
  have hcase := stepOp_cases s
  rw [h] at hcase
  cases hcase with
  | faulted | fetchFault => exact hc
  | awaiting x => exact sampleKeys_memCanonical (awaitKey_memCanonical (s := s.setReport none) x hc)
  | invalid => exact sampleKeys_memCanonical hc
  | executed w i u hrs hf hd hx => exact sampleKeys_memCanonical (exec_memCanonical (s := s.setReport none) hc hx)
  | stopped w i r hrs hf hd hx hn => exact absurd rfl (hn t)

/-- A LOAD that is not refused writes a ROM that fits, or changes nothing but the load error
(70_reset_and_hazards.md R282, R283). -/
theorem loadOp_next_cases {rom : List Byte} {s t : State} (h : loadOp rom s = .next t) :
    (rom.length ≤ maxRom ∧ t = loadProgram rom s) ∨ t = { s with loadError := some .tooLarge } := by
  unfold loadOp at h
  split at h
  · split at h
    next hfit => cases h; exact .inl ⟨of_decide_eq_true hfit, rfl⟩
    next => cases h; exact .inr rfl
  · cases h

/-- The largest ROM ends at the last byte of memory (R282). -/
theorem loadOp_memCanonical {rom : List Byte} {s t : State} (hc : MemCanonical s) (h : loadOp rom s = .next t) :
    MemCanonical t := by
  obtain ⟨hmem, hpar⟩ := id hc
  rcases loadOp_next_cases h with ⟨hfit, rfl⟩ | rfl
  · exact ⟨Memory.writeBytes_wf hmem rom progBase (by rw [maxRom] at hfit; rw [progBase, memSize]; omega), hpar⟩
  · exact hc

theorem resetOp_memCanonical {s : State} (hc : MemCanonical s) : MemCanonical (resetOp s) := by
  obtain ⟨-, hpar⟩ := hc
  exact ⟨Memory.initial_wf hpar, hpar⟩

/-- Every operation of the host keeps the canonical form. -/
theorem perform_memCanonical {op : HostOp} {s t : State} (hc : MemCanonical s) (h : perform op s = .next t) :
    MemCanonical t := by
  cases op with
  | step => exact stepOp_memCanonical hc h
  | load rom => exact loadOp_memCanonical hc h
  | reset => cases h; exact resetOp_memCanonical hc
  | timerTick | writeKeys | supplyRand => cases h; exact hc

/-- Settles O52, by the operation the step performs. -/
theorem memoryStaysCanonical : Obligations.MemoryStaysCanonical := by
  unfold Obligations.MemoryStaysCanonical
  intro s t hc h
  cases hh : s.host with
  | nil => rw [step_nil hh] at h; exact stepOp_memCanonical hc h
  | cons op rest => rw [step_cons hh] at h; exact perform_memCanonical (s := { s with host := rest }) hc h

/-- After FX55 the byte at I + k is V[k], for every k up to X (43_index_memory.md R184). -/
theorem exec_stRegs_read {x k : RegIdx} {s t : State} (hwf : s.mem.wf = true) (hin : s.i.toNat + x.val ≤ 0xFFF)
    (h : exec (.stRegs x) s = .next t) (hk : k ≤ x) : t.mem.read (s.i.toNat + k.val) = s.reg k := by
  have hlen := s.regBlock_length x
  have hkx : k.val ≤ x.val := hk
  rcases next_of_checked_cases h with ⟨-, rfl⟩ | ⟨hout, -⟩
  · change (s.mem.writeBytes s.i.toNat (s.regBlock x)).read (s.i.toNat + k.val) = s.reg k
    rw [Memory.read_writeBytes_inside hwf _ _ k.val (by omega) (by rw [hlen, memSize]; omega), State.regBlock_getElem]
  · exact absurd ((inMemory_iff _ _).2 (.inr (by rw [memSize]; omega))) hout

/-- Settles O38: the fetch at I + k reads the stored bytes k and k + 1. -/
theorem storedBytesAreFetched : Obligations.StoredBytesAreFetched := by
  unfold Obligations.StoredBytesAreFetched
  intro x k s t p hkx hwf hin h hp heven
  have hhi : t.mem.read p.toNat = s.reg k := by
    rw [hp]; exact exec_stRegs_read hwf hin h (Nat.le_of_lt hkx)
  have hlo : t.mem.read (p.toNat + 1) = s.reg ⟨k.val + 1, by omega⟩ := by
    rw [hp]; exact exec_stRegs_read (k := ⟨k.val + 1, by omega⟩) hwf hin h hkx
  refine (State.fetch_ok_iff _ _).2 ⟨?_, heven, ?_⟩
  · rw [State.setPc_pc]; omega
  · rw [State.setPc_pc, State.setPc_mem, hhi, hlo]

/-- Settles O8, by the cases of the fetch. -/
theorem fetchChecksInOrder : Obligations.FetchChecksInOrder := by
  unfold Obligations.FetchChecksInOrder
  intro s hrs
  refine ⟨fun hout => ?_, fun hin hodd => ?_, fun hin heven => ?_⟩
  · exact stepOp_fetchFault hrs ((s.fetch_error_iff _).2 (.inl ⟨hout, rfl⟩))
  · exact stepOp_fetchFault hrs ((s.fetch_error_iff _).2 (.inr ⟨hin, hodd, rfl⟩))
  · exact ⟨_, (s.fetch_ok_iff _).2 ⟨hin, heven, rfl⟩, wordOfBytes_hi _ _, wordOfBytes_lo _ _⟩

end Sys2Proof.Proofs
end

section
/-! Encoding (30_encoding.md): the decoder against the encoder and the opcode map, and O1 to O5. -/

namespace Sys2Proof.Proofs

open Sys2Proof Sys2Proof.Laws.Encoding

/-! ## The bits a mask of the opcode map selects (R94, R95) -/

theorem fieldOp_lt (w : Word) : fieldOp w < 16 := (w.extractLsb' 12 4).isLt

theorem op_shift_family {n : Nat} (h : n < 16) :
    (BitVec.ofNat 16 n <<< 12) &&& (0xF000 : Word) = BitVec.ofNat 16 n <<< 12 := by
  interval_cases n <;> rfl

theorem op_shift_selectN {n : Nat} (h : n < 16) :
    (BitVec.ofNat 16 n <<< 12) &&& (0xF00F : Word) = BitVec.ofNat 16 n <<< 12 := by
  interval_cases n <;> rfl

theorem op_shift_selectNN {n : Nat} (h : n < 16) :
    (BitVec.ofNat 16 n <<< 12) &&& (0xF0FF : Word) = BitVec.ofNat 16 n <<< 12 := by
  interval_cases n <;> rfl

theorem putN_selectN (n : Height) : putN n &&& (0xF00F : Word) = putN n := by revert n; decide
theorem putN_selectNN (n : Height) : putN n &&& (0xF0FF : Word) = putN n := by revert n; decide
theorem putY_selectNN (y : RegIdx) : putY y &&& (0xF0FF : Word) = putY y := by revert y; decide

/-- NN as a word is its two nibbles. -/
theorem ofNat_fieldNN (w : Word) : BitVec.ofNat 16 (fieldNN w).toNat = putY (fieldY w) ||| putN (fieldN w) :=
  (BitVec.ofNat_toNat 16 _).trans (nn_eq_nibbles w)

/-- Mask F000 selects op. -/
theorem and_family (w : Word) : w &&& (0xF000 : Word) = BitVec.ofNat 16 (fieldOp w) <<< 12 := by
  conv_lhs => rw [word_eq_nibbles w]
  simp only [Laws.Encoding.or_and, op_shift_family (fieldOp_lt w), putX_family, putY_family, putN_family]
  simp

/-- Mask F00F selects op and N. -/
theorem and_selectN (w : Word) :
    w &&& (0xF00F : Word) = (BitVec.ofNat 16 (fieldOp w) <<< 12) ||| BitVec.ofNat 16 (fieldN w).val := by
  conv_lhs => rw [word_eq_nibbles w]
  simp only [Laws.Encoding.or_and, op_shift_selectN (fieldOp_lt w), putX_selectN, putY_selectN, putN_selectN]
  simp [putN]

/-- Mask F0FF selects op and NN. -/
theorem and_selectNN (w : Word) :
    w &&& (0xF0FF : Word) = (BitVec.ofNat 16 (fieldOp w) <<< 12) ||| BitVec.ofNat 16 (fieldNN w).toNat := by
  rw [ofNat_fieldNN]
  conv_lhs => rw [word_eq_nibbles w]
  simp only [Laws.Encoding.or_and, op_shift_selectNN (fieldOp_lt w), putX_selectNN, putY_selectNN, putN_selectNN]
  simp [BitVec.or_assoc]

/-! ## A word as its selected bits and the operand fields of a format (R92) -/

theorem word_of_nnn (w : Word) : (w &&& (0xF000 : Word)) ||| zext16 (fieldNNN w) = w := by
  rw [and_family, nnn_eq_nibbles, ← BitVec.or_assoc, ← BitVec.or_assoc, ← word_eq_nibbles]

theorem word_of_xyn (w : Word) :
    (w &&& (0xF000 : Word)) ||| putX (fieldX w) ||| putY (fieldY w) ||| putN (fieldN w) = w := by
  rw [and_family, ← word_eq_nibbles]

theorem word_of_xnn (w : Word) : (w &&& (0xF000 : Word)) ||| putX (fieldX w) ||| zext16 (fieldNN w) = w := by
  rw [nn_eq_nibbles, ← BitVec.or_assoc, word_of_xyn]

theorem word_of_xy (w : Word) : (w &&& (0xF00F : Word)) ||| putX (fieldX w) ||| putY (fieldY w) = w := by
  calc (w &&& (0xF00F : Word)) ||| putX (fieldX w) ||| putY (fieldY w)
    _ = (w &&& (0xF000 : Word)) ||| putX (fieldX w) ||| putY (fieldY w) ||| putN (fieldN w) := by
      rw [and_selectN, and_family, putN]; ac_rfl
    _ = w := word_of_xyn w

theorem word_of_x (w : Word) : (w &&& (0xF0FF : Word)) ||| putX (fieldX w) = w := by
  calc (w &&& (0xF0FF : Word)) ||| putX (fieldX w)
    _ = (w &&& (0xF000 : Word)) ||| putX (fieldX w) ||| zext16 (fieldNN w) := by
      rw [and_selectNN, and_family, BitVec.ofNat_toNat]; ac_rfl
    _ = w := word_of_xnn w

/-! ## The instruction a row reads from a word -/

/-- The instruction of the same row whose operands are the fields of `w`. -/
def withOperands (w : Word) : Instr → Instr
  | .cls => .cls
  | .ret => .ret
  | .jp _ => .jp (fieldNNN w)
  | .call _ => .call (fieldNNN w)
  | .seImm _ _ => .seImm (fieldX w) (fieldNN w)
  | .sneImm _ _ => .sneImm (fieldX w) (fieldNN w)
  | .seReg _ _ => .seReg (fieldX w) (fieldY w)
  | .ldImm _ _ => .ldImm (fieldX w) (fieldNN w)
  | .addImm _ _ => .addImm (fieldX w) (fieldNN w)
  | .ldReg _ _ => .ldReg (fieldX w) (fieldY w)
  | .orReg _ _ => .orReg (fieldX w) (fieldY w)
  | .andReg _ _ => .andReg (fieldX w) (fieldY w)
  | .xorReg _ _ => .xorReg (fieldX w) (fieldY w)
  | .addReg _ _ => .addReg (fieldX w) (fieldY w)
  | .subReg _ _ => .subReg (fieldX w) (fieldY w)
  | .shr _ _ => .shr (fieldX w) (fieldY w)
  | .subn _ _ => .subn (fieldX w) (fieldY w)
  | .shl _ _ => .shl (fieldX w) (fieldY w)
  | .sneReg _ _ => .sneReg (fieldX w) (fieldY w)
  | .ldI _ => .ldI (fieldNNN w)
  | .jpV0 _ => .jpV0 (fieldNNN w)
  | .rnd _ _ => .rnd (fieldX w) (fieldNN w)
  | .drw _ _ _ => .drw (fieldX w) (fieldY w) (fieldN w)
  | .skp _ => .skp (fieldX w)
  | .sknp _ => .sknp (fieldX w)
  | .ldVxDt _ => .ldVxDt (fieldX w)
  | .ldVxK _ => .ldVxK (fieldX w)
  | .ldDtVx _ => .ldDtVx (fieldX w)
  | .ldStVx _ => .ldStVx (fieldX w)
  | .addI _ => .addI (fieldX w)
  | .ldF _ => .ldF (fieldX w)
  | .ldB _ => .ldB (fieldX w)
  | .stRegs _ => .stRegs (fieldX w)
  | .ldRegs _ => .ldRegs (fieldX w)

theorem withOperands_row (w : Word) (i : Instr) : (withOperands w i).row = i.row := by
  cases i <;> rfl

theorem matches_iff (r : Row) (w : Word) : r.matches w = true ↔ w &&& r.mask = r.pattern := beq_iff_eq

/-- A word that matches a row is the word of the instruction the row reads from it. -/
theorem encode_withOperands {w : Word} {i : Instr} (h : i.row.matches w = true) :
    encode (withOperands w i) = w := by
  rw [matches_iff] at h
  cases i with
  | cls | ret => exact h.symm.trans (BitVec.and_allOnes (x := w))
  | jp | call | ldI | jpV0 => exact (congrArg (· ||| _) h.symm).trans (word_of_nnn w)
  | seImm | sneImm | ldImm | addImm | rnd => exact (congrArg (· ||| _ ||| _) h.symm).trans (word_of_xnn w)
  | drw => exact (congrArg (· ||| _ ||| _ ||| _) h.symm).trans (word_of_xyn w)
  | seReg | ldReg | orReg | andReg | xorReg | addReg | subReg | shr | subn | shl | sneReg =>
    exact (congrArg (· ||| _ ||| _) h.symm).trans (word_of_xy w)
  | skp | sknp | ldVxDt | ldVxK | ldDtVx | ldStVx | addI | ldF | ldB | stRegs | ldRegs =>
    exact (congrArg (· ||| _) h.symm).trans (word_of_x w)

/-! ## What the decoder can answer -/

/-- The six lists of INVALID words, by the fields of the word (R97). -/
def InvalidWord (w : Word) : Prop :=
  (fieldOp w = 0 ∧ w ≠ 0x00E0 ∧ w ≠ 0x00EE) ∨ (fieldOp w = 5 ∧ (fieldN w).val ≠ 0) ∨
  (fieldOp w = 8 ∧ (fieldN w).val ∈ [8, 9, 0xA, 0xB, 0xC, 0xD, 0xF]) ∨ (fieldOp w = 9 ∧ (fieldN w).val ≠ 0) ∨
  (fieldOp w = 0xE ∧ (fieldNN w).toNat ∉ [0x9E, 0xA1]) ∨
  (fieldOp w = 0xF ∧ (fieldNN w).toNat ∉ [0x07, 0x0A, 0x15, 0x18, 0x1E, 0x29, 0x33, 0x55, 0x65])

/-- The answers to a word that is refused exactly when `invalid` holds: the instruction a matching row reads from it, or
INVALID by name. -/
inductive Answer (w : Word) (invalid : Prop) : Except DecodeError Instr → Prop where
  | instr {i} (hvalid : ¬ invalid) (hrow : i.row.matches w = true) (hread : withOperands w i = i) :
      Answer w invalid (.ok i)
  | refused (hinvalid : invalid) : Answer w invalid (.error (.invalidOpcode w))

theorem Answer.congr {w : Word} {p q : Prop} {r : Except DecodeError Instr} (h : Answer w p r) (hpq : q ↔ p) :
    Answer w q r := by rwa [propext hpq]

/-- A row of mask F000 is matched by op. -/
theorem matches_of_op {w : Word} {i : Instr} {op : Nat} (hmask : i.row.mask = 0xF000) (hop : fieldOp w = op)
    (hpattern : BitVec.ofNat 16 op <<< 12 = i.row.pattern) : i.row.matches w = true := by
  rw [matches_iff, hmask, and_family, hop, hpattern]

/-- A row of mask F00F is matched by op and N. -/
theorem matches_of_op_n {w : Word} {i : Instr} {op n : Nat} (hmask : i.row.mask = 0xF00F) (hop : fieldOp w = op)
    (hn : (fieldN w).val = n) (hpattern : BitVec.ofNat 16 op <<< 12 ||| BitVec.ofNat 16 n = i.row.pattern) :
    i.row.matches w = true := by
  rw [matches_iff, hmask, and_selectN, hop, hn, hpattern]

/-- A row of mask F0FF is matched by op and NN. -/
theorem matches_of_op_nn {w : Word} {i : Instr} {op nn : Nat} (hmask : i.row.mask = 0xF0FF) (hop : fieldOp w = op)
    (hnn : (fieldNN w).toNat = nn) (hpattern : BitVec.ofNat 16 op <<< 12 ||| BitVec.ofNat 16 nn = i.row.pattern) :
    i.row.matches w = true := by
  rw [matches_iff, hmask, and_selectNN, hop, hnn, hpattern]

theorem decode0_answer (w : Word) : Answer w (w ≠ 0x00E0 ∧ w ≠ 0x00EE) (decode0 w) := by
  unfold decode0
  split
  next h => subst h; exact .instr (by decide) (by decide) rfl
  next hcls =>
    split
    next h => subst h; exact .instr (by decide) (by decide) rfl
    next hret => exact .refused ⟨hcls, hret⟩

/-- Families 5 and 9 have one row each, of N = 0. -/
theorem decode_n0_answer {w : Word} {i : Instr} (hrow : (fieldN w).val = 0 → i.row.matches w = true)
    (hread : withOperands w i = i) :
    Answer w ((fieldN w).val ≠ 0) (if fieldN w = 0 then .ok i else .error (.invalidOpcode w)) := by
  split
  next hn => exact .instr (by simp [hn]) (hrow (congrArg Fin.val hn)) hread
  next hn => exact .refused (Fin.val_ne_of_ne hn)

theorem decode8_answer {w : Word} (hop : fieldOp w = 8) :
    Answer w ((fieldN w).val ∈ [8, 9, 0xA, 0xB, 0xC, 0xD, 0xF]) (decode8 w) := by
  have hlt := (fieldN w).isLt
  unfold decode8
  split
  case h_10 =>
    refine .refused ?_
    simp only [List.mem_cons, List.not_mem_nil, or_false, imp_false] at *
    omega
  all_goals
    rename_i hn
    exact .instr (by simp [hn]) (matches_of_op_n rfl hop hn rfl) rfl

theorem decodeE_answer {w : Word} (hop : fieldOp w = 0xE) :
    Answer w ((fieldNN w).toNat ∉ [0x9E, 0xA1]) (decodeE w) := by
  unfold decodeE
  split
  case h_3 => exact .refused (by simp_all)
  all_goals
    rename_i hnn
    exact .instr (by simp [hnn]) (matches_of_op_nn rfl hop hnn rfl) rfl

theorem decodeF_answer {w : Word} (hop : fieldOp w = 0xF) :
    Answer w ((fieldNN w).toNat ∉ [0x07, 0x0A, 0x15, 0x18, 0x1E, 0x29, 0x33, 0x55, 0x65]) (decodeF w) := by
  unfold decodeF
  split
  case h_10 => exact .refused (by simp_all)
  all_goals
    rename_i hnn
    exact .instr (by simp [hnn]) (matches_of_op_nn rfl hop hnn rfl) rfl

/-- The answer to any word, by its family. -/
theorem decode_answer (w : Word) : Answer w (InvalidWord w) (decode w) := by
  have hlt := fieldOp_lt w
  unfold decode
  split
  case h_1 hop => exact (decode0_answer w).congr (by simp [InvalidWord, hop])
  case h_9 hop => exact (decode8_answer hop).congr (by simp [InvalidWord, hop])
  case h_15 hop => exact (decodeE_answer hop).congr (by simp [InvalidWord, hop])
  case h_16 hop => exact (decodeF_answer hop).congr (by simp [InvalidWord, hop])
  case h_6 hop | h_10 hop =>
    exact (decode_n0_answer (fun hn => matches_of_op_n rfl hop hn rfl) rfl).congr (by simp [InvalidWord, hop])
  case h_17 => simp only [imp_false] at *; omega
  all_goals
    rename_i hop
    exact .instr (by simp [InvalidWord, hop]) (matches_of_op rfl hop rfl) rfl

/-- A word that decodes matches the row of its instruction, whose operands are the fields of the word. -/
theorem decode_ok {w : Word} {i : Instr} (h : decode w = .ok i) :
    i.row.matches w = true ∧ withOperands w i = i := by
  have ha := decode_answer w
  rw [h] at ha
  cases ha with
  | instr _ hrow hread => exact ⟨hrow, hread⟩

/-! ## The encoder against the decoder -/

/-- Settles O2: op and the selector of an encoded word name its row, and each operand is read from its own field. -/
theorem decodeOfEncode : Obligations.DecodeOfEncode := by
  unfold Obligations.DecodeOfEncode
  intro i
  cases i with
  | cls | ret => decide
  | jp | call | ldI | jpV0 => simp [decode, encode, fieldOp, fieldNNN, BitVec.extractLsb'_or]
  | seImm | sneImm | ldImm | addImm | rnd => simp [decode, encode, fieldOp, fieldX, fieldNN, BitVec.extractLsb'_or]
  | seReg | sneReg | drw => simp [decode, encode, fieldOp, fieldX, fieldY, fieldN, BitVec.extractLsb'_or]
  | ldReg | orReg | andReg | xorReg | addReg | subReg | shr | subn | shl =>
    simp [decode, decode8, encode, fieldOp, fieldX, fieldY, fieldN, BitVec.extractLsb'_or]
  | skp | sknp => simp [decode, decodeE, encode, fieldOp, fieldX, fieldNN, BitVec.extractLsb'_or]
  | ldVxDt | ldVxK | ldDtVx | ldStVx | addI | ldF | ldB | stRegs | ldRegs =>
    simp [decode, decodeF, encode, fieldOp, fieldX, fieldNN, BitVec.extractLsb'_or]

/-- A word that matches a row decodes to the instruction the row reads from it. -/
theorem decode_of_matches {w : Word} {i : Instr} (h : i.row.matches w = true) :
    decode w = .ok (withOperands w i) := by
  conv_lhs => rw [← encode_withOperands h]
  exact decodeOfEncode _

/-- Settles O3: the word matches the row of its instruction, and a row drops no bit. -/
theorem encodeOfDecode : Obligations.EncodeOfDecode := by
  unfold Obligations.EncodeOfDecode
  intro w i h
  obtain ⟨hrow, hread⟩ := decode_ok h
  rw [← hread]
  exact encode_withOperands hrow

/-- Two rows a word matches are one: the word decodes to an instruction of each. -/
theorem row_unique {w : Word} {i j : Instr} (hi : i.row.matches w = true) (hj : j.row.matches w = true) :
    i.row = j.row := by
  have hij : withOperands w i = withOperands w j :=
    Except.ok.inj ((decode_of_matches hi).symm.trans (decode_of_matches hj))
  rw [← withOperands_row w i, hij, withOperands_row]

/-- Settles O4: a row decides decoding in both directions, so a word cannot match two. -/
theorem rowsDecideDecoding : Obligations.RowsDecideDecoding := by
  unfold Obligations.RowsDecideDecoding
  refine ⟨fun w j => ⟨fun h => ?_, ?_⟩, ?_⟩
  · exact ⟨_, decode_of_matches h, withOperands_row w j⟩
  · rintro ⟨i, hi, hij⟩
    obtain ⟨hrow, -⟩ := decode_ok hi
    exact hij ▸ hrow
  · intro w r hr r' hr' h h'
    obtain ⟨i, -, rfl⟩ := List.mem_map.1 hr
    obtain ⟨j, -, rfl⟩ := List.mem_map.1 hr'
    exact row_unique h h'

/-- Settles O5, by the answer to the word's family. -/
theorem invalidWordsExactly : Obligations.InvalidWordsExactly := by
  unfold Obligations.InvalidWordsExactly
  intro w
  have ha := decode_answer w
  simp only [InvalidWord, fieldOp_eq, fieldN_eq, fieldNN_eq] at ha
  cases hd : decode w with
  | ok i =>
    rw [hd] at ha
    cases ha with
    | instr hvalid => exact ⟨fun h => absurd h hvalid, fun _ => ⟨i, rfl⟩⟩
  | error e =>
    rw [hd] at ha
    cases ha with
    | refused hinvalid => exact ⟨fun _ => rfl, fun h => absurd hinvalid h⟩

/-- Settles O1, by running the decoder on each word. -/
theorem writtenWordsDecode : Obligations.WrittenWordsDecode := by
  unfold Obligations.WrittenWordsDecode
  decide

end Sys2Proof.Proofs
end

section
/-! The STEP cycle (40_step_cycle.md R110 to R120): what a STEP of each run state does, where an operation is refused, and
O6, O9, O10, O15 and O16. -/

namespace Sys2Proof.Proofs

open Sys2Proof Sys2Proof.Machine Sys2Proof.Safety

/-- The next instruction is what the fetched word of a Running core decodes to (R114, R115). -/
theorem nextInstr_eq_some_iff (s : State) (i : Instr) :
    nextInstr s = some i ↔ s.rs = .running ∧ ∃ w, s.fetch = .ok w ∧ decode w = .ok i := by
  unfold nextInstr
  cases s.rs with
  | running =>
    cases s.fetch with
    | error c => simp
    | ok w => cases hd : decode w <;> simp [hd, Except.toOption]
  | unloaded | awaitingKey | faulted => simp

/-- An operation that is checked first is not refused: it completes or faults (20_memory.md R72). -/
theorem checked_ne_refused {s u : State} {e : Fault} {r : Refusal} {p : Prop} [Decidable p] :
    (if p then .next u else s.fatal e : Result) ≠ .refused r := by
  split <;> exact nofun

/-- FX1E is the only instruction that is refused (43_index_memory.md R181). -/
theorem exec_refused_cases {i : Instr} {s : State} {r : Refusal} (h : exec i s = .refused r) :
    r = .indexOverflow ∧ ∃ x, i = .addI x ∧ s.i.toNat + (s.reg x).toNat > 0xFFFF := by
  cases i with
  | addI x =>
    simp only [exec, execAddI] at h
    split at h
    next hsum => cases h; exact ⟨rfl, x, rfl, hsum⟩
    next => cases h
  | ret =>
    obtain ⟨t, ht⟩ := exec_next_of_writesStack (i := .ret) s trivial
    cases h.symm.trans ht
  | call nnn =>
    obtain ⟨t, ht⟩ := exec_next_of_writesStack (i := .call nnn) s trivial
    cases h.symm.trans ht
  | drw | ldB | stRegs | ldRegs => exact absurd h checked_ne_refused
  | skp x => simp only [exec, execSkp] at h; split at h <;> cases h
  | sknp x => simp only [exec, execSknp] at h; split at h <;> cases h
  | ldVxK x => simp only [exec, execLdVxK] at h; split at h <;> cases h
  | cls | jp | seImm | sneImm | seReg | ldImm | addImm | ldReg | orReg | andReg | xorReg | addReg | subReg | shr | subn
  | shl | sneReg | ldI | jpV0 | rnd | ldVxDt | ldDtVx | ldStVx | ldF => cases h

/-- FX1E is refused when the exact sum passes 0xFFFF (43_index_memory.md R181). -/
theorem exec_addI_overflow {x : RegIdx} {s : State} (h : s.i.toNat + (s.reg x).toNat > 0xFFFF) :
    exec (.addI x) s = .refused .indexOverflow := if_pos h

/-- A STEP is refused before a LOAD (R111), or by an FX1E whose sum passes 0xFFFF (43_index_memory.md R181). -/
theorem stepOp_refused_iff (s : State) (r : Refusal) : stepOp s = .refused r ↔
    (r = .stepBeforeLoad ∧ s.rs = .unloaded) ∨
    (r = .indexOverflow ∧ ∃ x, nextInstr s = some (.addI x) ∧ s.i.toNat + (s.reg x).toNat > 0xFFFF) := by
  constructor
  · intro h
    have hc := stepOp_cases s
    rw [h] at hc
    cases hc with
    | unloaded hrs => exact .inl ⟨rfl, hrs⟩
    | stopped w i _ hrs hf hd hx hn =>
      obtain ⟨rfl, x, rfl, hsum⟩ := exec_refused_cases hx
      exact .inr ⟨rfl, x, (nextInstr_eq_some_iff s _).2 ⟨hrs, w, hf, hd⟩, hsum⟩
  · rintro (⟨rfl, hrs⟩ | ⟨rfl, x, hnext, hsum⟩)
    · exact stepOp_unloaded hrs
    · obtain ⟨hrs, w, hf, hd⟩ := (nextInstr_eq_some_iff s _).1 hnext
      rw [stepOp_decoded hrs hf hd, exec_addI_overflow (s := s.setReport none) hsum]
      rfl

/-- A LOAD is refused exactly while the core is loaded (70_reset_and_hazards.md R284). -/
theorem loadOp_refused_iff (rom : List Byte) (s : State) (r : Refusal) :
    loadOp rom s = .refused r ↔ r = .loadWhileLoaded ∧ s.rs ≠ .unloaded := by
  unfold loadOp
  cases s.rs with
  | unloaded => cases romFits rom <;> simp
  | running | awaitingKey | faulted => simp [eq_comm]

/-- Settles O15, by the operation; only STEP and LOAD can be refused. -/
theorem refusalsExactly : Obligations.RefusalsExactly := by
  unfold Obligations.RefusalsExactly
  intro op s r
  cases op with
  | step => simpa [perform] using stepOp_refused_iff s r
  | load rom => simpa [perform] using loadOp_refused_iff rom s r
  | timerTick | reset | writeKeys | supplyRand => simp [perform]

/-- Settles O10: a STEP only clears the report, a LOAD is refused, and the other operations do not write RS. -/
theorem faultedCoreIdles : Obligations.FaultedCoreIdles := by
  unfold Obligations.FaultedCoreIdles
  intro s c hrs
  refine ⟨stepOp_faulted hrs, fun op t hop h => ?_⟩
  cases op with
  | reset => exact absurd rfl hop
  | step => cases (stepOp_faulted hrs).symm.trans h; exact hrs
  | load rom =>
    have hrefused : loadOp rom s = .refused .loadWhileLoaded :=
      (loadOp_refused_iff rom s _).2 ⟨rfl, by rw [hrs]; exact nofun⟩
    cases hrefused.symm.trans h
  | timerTick | writeKeys | supplyRand => cases h; exact hrs

/-- The keyboard sample does not write RS. -/
@[simp] theorem sampleKeys_rs (s : State) : s.sampleKeys.rs = s.rs := by
  rcases s.sampleKeys_cases with hs | hs <;> rw [hs]
  rfl

/-- A STEP that does not end Faulted ends with KB_PREV = KEYS (R118). -/
theorem sampleKeys_kbPrev {s : State} (h : ∀ c, s.sampleKeys.rs ≠ .faulted c) : s.sampleKeys.kbPrev = s.keys := by
  rw [State.sampleKeys_of_not_faulted fun c => sampleKeys_rs s ▸ h c]
  rfl

/-- A waiting STEP does not write the keyboard lines (45_timers_keys.md R226). -/
@[simp] theorem awaitKey_keys (s : State) (x : RegIdx) : (s.awaitKey x).keys = s.keys := by
  rcases s.awaitKey_cases x with ⟨h, -⟩ | ⟨k, -, h⟩ <;> rw [h]
  rfl

/-- A STEP of a Running or waiting core that does not end Faulted samples the keyboard (R118). -/
theorem stepOp_kbPrev {s t : State} (h : stepOp s = .next t) (hs : ∀ c, s.rs ≠ .faulted c)
    (ht : ∀ c, t.rs ≠ .faulted c) : t.kbPrev = s.keys := by
  have hc := stepOp_cases s
  rw [h] at hc
  cases hc with
  | faulted c hrs => exact absurd hrs (hs c)
  | awaiting x hrs => exact (sampleKeys_kbPrev ht).trans (awaitKey_keys _ x)
  | fetchFault c hrs hf => exact absurd rfl (ht c)
  | invalid w e hrs hf hd => exact sampleKeys_kbPrev ht
  | executed w i u hrs hf hd hx => exact (sampleKeys_kbPrev ht).trans (exec_surroundings hx).keys
  | stopped w i r hrs hf hd hx hn => exact absurd rfl (hn t)

/-- Settles O16, by the case of the STEP, and by the operation for the others. -/
theorem keyboardSampleWritten : Obligations.KeyboardSampleWritten := by
  unfold Obligations.KeyboardSampleWritten
  refine ⟨fun s t h hs ht => stepOp_kbPrev h ?_ ht, fun op s t hstep hreset h => ?_⟩
  · rcases hs with hrs | ⟨x, hrs⟩ <;> rw [hrs] <;> exact nofun
  · cases op with
    | step => exact absurd rfl hstep
    | reset => exact absurd rfl hreset
    | load rom => rcases loadOp_next_cases h with ⟨-, rfl⟩ | rfl <;> rfl
    | timerTick | writeKeys | supplyRand => cases h; rfl

/-- Settles O6: the fetch answers the word at PC, and the host's list does not enter a STEP. -/
theorem stepRunsDecodedInstruction : Obligations.StepRunsDecodedInstruction := by
  unfold Obligations.StepRunsDecodedInstruction
  intro s i hrs hin heven hd
  have hf : s.fetch = .ok (wordOfBytes (s.mem.read s.pc.toNat) (s.mem.read (s.pc.toNat + 1))) :=
    (s.fetch_ok_iff _).2 ⟨hin, heven, rfl⟩
  refine ⟨fun hh => ?_, fun rest hh => ?_, fun t ⟨c, hc⟩ => ?_, fun t hc => ?_⟩
  · rw [step_nil hh]
    exact stepOp_decoded hrs hf hd
  · rw [step_cons hh]
    exact stepOp_decoded (s := { s with host := rest }) hrs hf hd
  · rw [endStep, State.sampleKeys_of_faulted hc]
  · rw [endStep, State.sampleKeys_of_not_faulted hc]
    rfl

/-- Settles O9: the core is still Running when the keyboard is sampled. -/
theorem invalidWordReports : Obligations.InvalidWordReports := by
  unfold Obligations.InvalidWordReports
  intro s w e hrs hf hd
  have hrun : ∀ c, ((s.setReport none).reportInvalid w).rs ≠ .faulted c := fun c hc => by cases hrs.symm.trans hc
  rw [stepOp_invalid hrs hf hd, endStep, State.sampleKeys_of_not_faulted hrun]
  rfl

end Sys2Proof.Proofs
end

section
/-! Control flow (41_control_flow.md R130 to R138): return, jumps, call and skips, and O17 to O22. -/

namespace Sys2Proof.Proofs

open Sys2Proof Sys2Proof.Machine Sys2Proof.Safety

/-! ## PC alone changes -/

theorem onlyPc_setPc (s : State) (a : Word) : OnlyPc s (s.setPc a) :=
  ⟨fun _ => rfl, fun _ => rfl, rfl, ⟨rfl, rfl⟩, ⟨rfl, rfl⟩, rfl, rfl, ⟨⟨rfl, rfl, rfl⟩, rfl, rfl, rfl⟩, rfl, rfl⟩

/-- A skip whose condition computes `p` leaves PC + 4 where `p` holds, PC + 2 where not, and nothing else (R138). -/
theorem skipIf_spec (s : State) {c : Bool} {p : Prop} [Decidable p] (h : c = true ↔ p) :
    (s.skipIf c).pc = (if p then s.pc + 4 else s.pc + 2) ∧ OnlyPc s (s.skipIf c) :=
  ⟨(s.skipIf_target c).trans (if_congr h rfl rfl), onlyPc_setPc s _⟩

/-- Settles O20: the conditions are the comparisons of R133 and R134. -/
theorem skipOnImmediate : Obligations.SkipOnImmediate := by
  unfold Obligations.SkipOnImmediate
  intro x nn s
  exact ⟨rfl, ⟨_, rfl, skipIf_spec s beq_iff_eq⟩, rfl, ⟨_, rfl, skipIf_spec s bne_iff_ne⟩⟩

/-! ## INVALID words of families 5 and 9 (R135, R136) -/

/-- The decoder refuses every word of the six lists (30_encoding.md R97). -/
theorem decode_invalid {w : Word} (h : InvalidWord w) : decode w = .error (.invalidOpcode w) := by
  have ha := decode_answer w
  cases hd : decode w with
  | ok i =>
    rw [hd] at ha
    cases ha with
    | instr hvalid => exact absurd h hvalid
  | error e =>
    rw [hd] at ha
    cases ha with
    | refused => rfl

/-- The operand fields of a word leave its op nibble alone (30_encoding.md R91). -/
theorem fieldOp_xyn (op : Word) (x y : RegIdx) (n : Height) :
    fieldOp (op ||| putX x ||| putY y ||| putN n) = fieldOp op := by
  simp [fieldOp, BitVec.extractLsb'_or]

/-- The low nibble of a word is its N field (R91). -/
theorem fieldN_xyn (op : Word) (x y : RegIdx) (n : Height) (hop : op.extractLsb' 0 4 = 0) :
    fieldN (op ||| putX x ||| putY y ||| putN n) = n := by
  simp [fieldN, BitVec.extractLsb'_or, hop]

/-- Settles O21: the conditions are the comparisons of R135 and R136; families 5 and 9 have one row each, of N = 0. -/
theorem skipOnRegisters : Obligations.SkipOnRegisters := by
  unfold Obligations.SkipOnRegisters
  intro x y s
  refine ⟨rfl, ⟨_, rfl, skipIf_spec s beq_iff_eq⟩, rfl, ⟨_, rfl, skipIf_spec s bne_iff_ne⟩, fun n hn w hw => ?_⟩
  have hn' : n.val ≠ 0 := Fin.val_ne_of_ne hn
  apply decode_invalid
  rcases List.mem_pair.1 hw with rfl | rfl
  · exact .inr (.inl ⟨fieldOp_xyn _ x y n, by rwa [fieldN_xyn _ x y n rfl]⟩)
  · exact .inr (.inr (.inr (.inl ⟨fieldOp_xyn _ x y n, by rwa [fieldN_xyn _ x y n rfl]⟩)))

/-! ## Jumps, and the fetch at their target (20_memory.md R64) -/

theorem fetch_outOfRange {s : State} (h : s.pc.toNat > 0xFFE) : s.fetch = .error .fetchOutOfRange :=
  (s.fetch_error_iff _).2 (.inl ⟨by omega, rfl⟩)

theorem fetch_misaligned {s : State} (h : s.pc.toNat ≤ 0xFFE) (hodd : s.pc.toNat % 2 = 1) :
    s.fetch = .error .misalignedFetch :=
  (s.fetch_error_iff _).2 (.inr ⟨by omega, hodd, rfl⟩)

/-- Settles O18: an address below 0xFFF passes the range check of the next fetch. -/
theorem jumpSetsPc : Obligations.JumpSetsPc := by
  unfold Obligations.JumpSetsPc
  intro nnn s
  have hpc : (s.setPc (zext16 nnn)).pc.toNat = nnn.toNat := zext16_toNat_addr nnn
  refine ⟨rfl, s.setPc (zext16 nnn), rfl, rfl, onlyPc_setPc s _, fun h => ?_, fun hodd hne => ?_, fun h => ?_⟩
  · exact fetch_outOfRange (by rw [hpc, h]; decide)
  · have hlt := nnn.isLt
    have hne' : nnn.toNat ≠ 0xFFF := fun h => hne (BitVec.eq_of_toNat_eq h)
    exact fetch_misaligned (by omega) (by rwa [hpc])
  · rw [← h]
    rfl

/-- Settles O22: the 16-bit sum does not wrap. -/
theorem offsetJumpIsExact : Obligations.OffsetJumpIsExact := by
  unfold Obligations.OffsetJumpIsExact
  intro nnn s
  have hpc : (s.setPc (offsetTarget nnn (s.reg 0))).pc.toNat = nnn.toNat + (s.reg 0).toNat := offsetTarget_toNat _ _
  have hnnn := nnn.isLt
  have hv0 := (s.reg 0).isLt
  exact ⟨rfl, s.setPc (offsetTarget nnn (s.reg 0)), rfl, hpc, by omega, onlyPc_setPc s _,
    fetch_outOfRange, fetch_misaligned⟩

/-! ## The call stack (10_state.md R30, R31) -/

/-- Moving the stack and PC changes nothing else. -/
theorem setStack_setPc_frame (s : State) (sp : Fin 17) (stack : Vector Word 16) (a : Word) :
    let t := (s.setStack sp stack).setPc a
    RegsSame s t ∧ MemSame s t ∧ IndexSame s t ∧ TimersSame s t ∧ DispSame s t ∧ RunStateSame s t ∧ HostSame s t ∧
      DrawsSame s t :=
  ⟨fun _ => rfl, fun _ => rfl, rfl, ⟨rfl, rfl⟩, rfl, rfl, ⟨⟨rfl, rfl, rfl⟩, rfl, rfl, rfl⟩, rfl, rfl⟩

theorem exec_ret_of_pos {s : State} (h : 0 < s.sp.val) : exec .ret s =
    .next ((s.setStack ⟨s.sp.val - 1, by omega⟩ s.stack).setPc (s.stack.get ⟨s.sp.val - 1, by omega⟩)) := by
  simp only [exec, execRet, State.pop_of_pos h]
  rfl

theorem exec_ret_empty {s : State} (h : s.sp.val = 0) : exec .ret s = s.fatal .stackUnderflow := by
  simp only [exec, execRet, State.pop_empty (Nat.not_lt.2 (Nat.le_of_eq h))]

theorem exec_call_of_lt {s : State} (nnn : Addr12) (h : s.sp.val < 16) : exec (.call nnn) s =
    .next ((s.setStack ⟨s.sp.val + 1, by omega⟩ (s.stack.set s.sp.val (s.pc + 2))).setPc (zext16 nnn)) := by
  simp only [exec, execCall, State.push_of_lt h]

theorem exec_call_full {s : State} (nnn : Addr12) (h : s.sp.val = 16) :
    exec (.call nnn) s = s.fatal .stackOverflow := by
  simp only [exec, execCall, State.push_full (Nat.not_lt.2 (Nat.le_of_eq h.symm))]

/-- Settles O17, by whether the stack is empty. -/
theorem returnPopsStack : Obligations.ReturnPopsStack := by
  unfold Obligations.ReturnPopsStack
  refine ⟨rfl, fun s => ⟨fun h => ⟨_, exec_ret_empty h, rfl⟩, fun h => ?_⟩⟩
  exact ⟨_, exec_ret_of_pos h, rfl, rfl, rfl, setStack_setPc_frame s _ _ _⟩

/-- Settles O19, by whether the stack is full; the push writes slot SP alone. -/
theorem callPushesReturnAddress : Obligations.CallPushesReturnAddress := by
  unfold Obligations.CallPushesReturnAddress
  refine fun nnn s => ⟨rfl, fun h => ⟨_, exec_call_full nnn h, rfl⟩, fun h => ?_⟩
  have hslot : (s.stack.set s.sp.val (s.pc + 2)).get ⟨s.sp.val, h⟩ = s.pc + 2 := Vector.getElem_set_self h
  have hother (k : Fin 16) (hk : k.val ≠ s.sp.val) :
      (s.stack.set s.sp.val (s.pc + 2)).get k = s.stack.get k := Vector.getElem_set_ne h k.isLt hk.symm
  exact ⟨_, exec_call_of_lt nnn h, hslot, rfl, rfl, hother, setStack_setPc_frame s _ _ _⟩

end Sys2Proof.Proofs
end

section
/-! Register loads and arithmetic (42_register_alu.md R150 to R160): loads, logic, and arithmetic with its flag, and O23 to
O31. -/

namespace Sys2Proof.Proofs

open Sys2Proof Sys2Proof.Machine Sys2Proof.Safety

/-! ## Registers and PC alone change -/

theorem onlyRegsPc_setV_setPc (s : State) (v : Vector Byte 16) (a : Word) : OnlyRegsPc s ((s.setV v).setPc a) :=
  ⟨fun _ => rfl, rfl, ⟨rfl, rfl⟩, ⟨rfl, rfl⟩, rfl, rfl, ⟨⟨rfl, rfl, rfl⟩, rfl, rfl, rfl⟩, rfl, rfl⟩

/-- An instruction without a flag writes V[X], advances PC and changes nothing else, VF included unless X = F (R163). -/
theorem writeResult_spec (s : State) (x : RegIdx) (b : Byte) :
    let t := s.writeResult x b
    t.reg x = b ∧ t.pc = s.pc + 2 ∧ RegsExcept (· = x) s t ∧ OnlyRegsPc s t := by
  refine ⟨?_, rfl, fun r hr => ?_, onlyRegsPc_setV_setPc s _ _⟩
  · rw [State.writeResult_reg, if_pos rfl]
  · rw [State.writeResult_reg, if_neg hr]

/-- An instruction with a flag writes V[X] and then VF, which so holds the flag even when X = F (10_state.md R23). -/
theorem writeWithFlag_spec (s : State) (x : RegIdx) (b f : Byte) :
    let t := s.writeWithFlag x b f
    t.reg 0xF = f ∧ (x ≠ 0xF → t.reg x = b) ∧ t.pc = s.pc + 2 ∧ RegsExcept (fun r => r = x ∨ r = 0xF) s t ∧
      OnlyRegsPc s t := by
  refine ⟨?_, fun hx => ?_, rfl, fun r hr => ?_, onlyRegsPc_setV_setPc s _ _⟩
  · rw [State.writeWithFlag_reg, if_pos rfl]
  · rw [State.writeWithFlag_reg, if_neg hx, if_pos rfl]
  · obtain ⟨hrx, hrf⟩ := not_or.1 hr
    rw [State.writeWithFlag_reg, if_neg hrf, if_neg hrx]

/-! ## Results and flags as numbers (R162, R163) -/

theorem flagByte_decide (p : Prop) [Decidable p] : flagByte (decide p) = if p then 1 else 0 := by
  simp only [flagByte, decide_eq_true_eq]

theorem flagByte_toNat (c : Bool) : (flagByte c).toNat = c.toNat := by
  cases c <;> rfl

/-- Subtraction is that of the integers modulo 256. -/
theorem sub_toNat_int (a b : Byte) : ((a - b).toNat : Int) = ((a.toNat : Int) - b.toNat) % 256 := by
  have hb := b.isLt
  rw [BitVec.toNat_sub]
  omega

theorem shiftedOutRight_toNat (a : Byte) : (shiftedOutRight a).toNat = a.toNat % 2 := by
  rw [shiftedOutRight, flagByte_toNat, BitVec.getLsbD, Nat.toNat_testBit, pow_zero, Nat.div_one]

theorem shiftedOutLeft_toNat (a : Byte) : (shiftedOutLeft a).toNat = a.toNat / 128 := by
  have ha := a.isLt
  rw [shiftedOutLeft, flagByte_toNat, BitVec.getLsbD, Nat.toNat_testBit]
  omega

theorem shiftRight_one_toNat (a : Byte) : (a >>> 1).toNat = a.toNat / 2 := by
  rw [BitVec.toNat_ushiftRight, Nat.shiftRight_eq_div_pow, pow_one]

theorem shiftLeft_one_toNat (a : Byte) : (a <<< 1).toNat = a.toNat * 2 % 256 := by
  rw [BitVec.toNat_shiftLeft, Nat.shiftLeft_eq, pow_one]

/-- SHIFT_SRC chooses the shifted register (R158, R160). -/
theorem shiftOperand_eq (s : State) (x y : RegIdx) :
    s.shiftOperand x y = if s.params.shiftSrc = .vx then s.reg x else s.reg y := by
  unfold State.shiftOperand
  cases s.params.shiftSrc <;> rfl

/-! ## Arithmetic and shifts with a flag (R156 to R160) -/

/-- Settles O27: sum and carry are computed from the operands read before either is written. -/
theorem addSetsCarry : Obligations.AddSetsCarry := by
  unfold Obligations.AddSetsCarry
  intro x y s
  obtain ⟨hflag, hresult, hframe⟩ :=
    writeWithFlag_spec s x (s.reg x + s.reg y) (carryFlag (s.reg x) (s.reg y))
  refine ⟨rfl, _, rfl, hflag.trans (flagByte_decide _), fun hx => ?_, hframe⟩
  rw [hresult hx, BitVec.toNat_add]

/-- Settles O28: the flag is the strict comparison, the difference that of the integers modulo 256. -/
theorem subtractSetsNotBorrow : Obligations.SubtractSetsNotBorrow := by
  unfold Obligations.SubtractSetsNotBorrow
  intro x y s
  obtain ⟨hflag, hresult, hframe⟩ :=
    writeWithFlag_spec s x (s.reg x - s.reg y) (notBorrowFlag (s.reg x) (s.reg y))
  refine ⟨rfl, _, rfl, hflag.trans (flagByte_decide _), fun hx => ?_, hframe⟩
  rw [hresult hx, sub_toNat_int]

/-- Settles O29: bit 0 of the source is its remainder by 2. -/
theorem shiftRightSetsLowBit : Obligations.ShiftRightSetsLowBit := by
  unfold Obligations.ShiftRightSetsLowBit
  intro x y s
  rw [← shiftOperand_eq]
  obtain ⟨hflag, hresult, hframe⟩ :=
    writeWithFlag_spec s x (s.shiftOperand x y >>> 1) (shiftedOutRight (s.shiftOperand x y))
  refine ⟨rfl, _, rfl, ⟨?_, fun hx => ?_⟩, hframe⟩
  · rw [hflag, shiftedOutRight_toNat]
  · rw [hresult hx, shiftRight_one_toNat]

/-- Settles O30: 8XY5 with the operands exchanged. -/
theorem reversedSubtractSetsNotBorrow : Obligations.ReversedSubtractSetsNotBorrow := by
  unfold Obligations.ReversedSubtractSetsNotBorrow
  intro x y s
  obtain ⟨hflag, hresult, hframe⟩ :=
    writeWithFlag_spec s x (s.reg y - s.reg x) (notBorrowFlag (s.reg y) (s.reg x))
  refine ⟨rfl, _, rfl, hflag.trans (flagByte_decide _), fun hx => ?_, hframe⟩
  rw [hresult hx, sub_toNat_int]

/-- Settles O31: bit 7 of the source is its quotient by 128. -/
theorem shiftLeftSetsHighBit : Obligations.ShiftLeftSetsHighBit := by
  unfold Obligations.ShiftLeftSetsHighBit
  intro x y s
  rw [← shiftOperand_eq]
  obtain ⟨hflag, hresult, hframe⟩ :=
    writeWithFlag_spec s x (s.shiftOperand x y <<< 1) (shiftedOutLeft (s.shiftOperand x y))
  refine ⟨rfl, _, rfl, ⟨?_, fun hx => ?_⟩, hframe⟩
  · rw [hflag, shiftedOutLeft_toNat]
  · rw [hresult hx, shiftLeft_one_toNat]

/-! ## Loads, logic and 7XNN, without a flag (R150 to R155) -/

/-- Settles O23. -/
theorem loadImmediate : Obligations.LoadImmediate := by
  unfold Obligations.LoadImmediate
  intro x nn s
  exact ⟨rfl, _, rfl, writeResult_spec s x nn⟩

/-- Settles O24: addition of bytes is modulo 256. -/
theorem addImmediateWraps : Obligations.AddImmediateWraps := by
  unfold Obligations.AddImmediateWraps
  intro x nn s
  obtain ⟨hresult, hframe⟩ := writeResult_spec s x (s.reg x + nn)
  refine ⟨rfl, _, rfl, ?_, hframe⟩
  rw [hresult, BitVec.toNat_add]

/-- Settles O25. -/
theorem copyRegister : Obligations.CopyRegister := by
  unfold Obligations.CopyRegister
  intro x y s
  exact ⟨rfl, _, rfl, writeResult_spec s x (s.reg y)⟩

/-- Settles O26: each operation on bytes acts bit by bit. -/
theorem logicIsBitwise : Obligations.LogicIsBitwise := by
  unfold Obligations.LogicIsBitwise
  intro x y s
  obtain ⟨hor, horFrame⟩ := writeResult_spec s x (s.reg x ||| s.reg y)
  obtain ⟨hand, handFrame⟩ := writeResult_spec s x (s.reg x &&& s.reg y)
  obtain ⟨hxor, hxorFrame⟩ := writeResult_spec s x (s.reg x ^^^ s.reg y)
  refine ⟨⟨rfl, _, rfl, fun b _ => ?_, horFrame⟩, ⟨rfl, _, rfl, fun b _ => ?_, handFrame⟩,
    ⟨rfl, _, rfl, fun b _ => ?_, hxorFrame⟩⟩
  · rw [hor, BitVec.getLsbD_or]
  · rw [hand, BitVec.getLsbD_and]
  · rw [hxor, BitVec.getLsbD_xor]

end Sys2Proof.Proofs
end

section
/-! Index register and memory transfers (43_index_memory.md R180 to R186): I loaded, added to and pointed at a glyph, the
decimal digits, the two register blocks, and O33 to O37 and O39. -/

namespace Sys2Proof.Proofs

open Sys2Proof Sys2Proof.Machine Sys2Proof.Safety

/-! ## What every transfer leaves alone -/

/-- Whatever registers, memory and I an instruction leaves, it changes nothing else but PC. A transfer that writes only some
of the three takes the state's own values for the others. -/
theorem transfer_frame (s : State) (v : Vector Byte 16) (m : Memory) (a : Word) :
    let t := (((s.setV v).setMem m).setI a).advance
    StackSame s t ∧ TimersSame s t ∧ DispSame s t ∧ RunStateSame s t ∧ HostSame s t ∧ DrawsSame s t :=
  ⟨⟨rfl, rfl⟩, ⟨rfl, rfl⟩, rfl, rfl, ⟨⟨rfl, rfl, rfl⟩, rfl, rfl, rfl⟩, rfl, rfl⟩

/-! ## The range check of `n + 1` bytes (20_memory.md R72) -/

theorem inMemory_succ_iff {base n : Nat} : inMemory base (n + 1) = true ↔ base + n ≤ 0xFFF := by
  rw [inMemory_iff, memSize]
  omega

theorem checked_inRange {base n : Nat} {s u : State} (h : base + n ≤ 0xFFF) :
    (if inMemory base (n + 1) then .next u else s.fatal .dataOutOfRange : Result) = .next u :=
  if_pos (inMemory_succ_iff.2 h)

theorem checked_outOfRange {base n : Nat} {s u : State} (h : base + n > 0xFFF) :
    ∃ t, (if inMemory base (n + 1) then .next u else s.fatal .dataOutOfRange : Result) = .next t ∧
      Faults .dataOutOfRange s t :=
  ⟨_, if_neg (mt inMemory_succ_iff.1 (Nat.not_le.2 h)), rfl⟩

/-! ## FX33, FX55 and FX65 -/

theorem exec_ldB_inRange {x : RegIdx} {s : State} (h : s.i.toNat + 2 ≤ 0xFFF) : exec (.ldB x) s =
    .next (s.setMem (s.mem.writeBytes s.i.toNat (decimalDigits (s.reg x)))).advance := checked_inRange h

theorem exec_stRegs_inRange {x : RegIdx} {s : State} (h : s.i.toNat + x.val ≤ 0xFFF) : exec (.stRegs x) s =
    .next ((s.setMem (s.mem.writeBytes s.i.toNat (s.regBlock x))).setI (s.indexAfterBlock x)).advance :=
  checked_inRange h

theorem exec_ldRegs_inRange {x : RegIdx} {s : State} (h : s.i.toNat + x.val ≤ 0xFFF) : exec (.ldRegs x) s =
    .next ((s.setV (s.loadedBlock x)).setI (s.indexAfterBlock x)).advance := checked_inRange h

/-- The digits written at `a` read back as numbers, each of which fits its byte (R183). -/
theorem read_writeBytes_decimalDigits {m : Memory} (hwf : m.wf = true) {a : Nat} (ha : a + 2 ≤ 0xFFF) (b : Byte) :
    let m' := m.writeBytes a (decimalDigits b)
    (m'.read a).toNat = b.toNat / 100 ∧ (m'.read (a + 1)).toNat = b.toNat / 10 % 10 ∧
      (m'.read (a + 2)).toNat = b.toNat % 10 := by
  have hb := b.isLt
  have hbyte {n : Nat} (hn : n < 256) : (BitVec.ofNat 8 n).toNat = n := Nat.mod_eq_of_lt hn
  have hread (k : Nat) (hk : k < 3) :
      ((m.writeBytes a (decimalDigits b)).read (a + k)).toNat = ((decimalDigits b)[k]'hk).toNat :=
    congrArg BitVec.toNat (Memory.read_writeBytes_inside hwf (decimalDigits b) a k hk (show a + 3 ≤ 4096 by omega))
  exact ⟨(hread 0 (by decide)).trans (hbyte (by omega)), (hread 1 (by decide)).trans (hbyte (by omega)),
    (hread 2 (by decide)).trans (hbyte (by omega))⟩

/-- INDEX_ADVANCE chooses I after a block inside the memory; I + X + 1 does not wrap (R186). -/
theorem indexAfterBlock_toNat {s : State} {x : RegIdx} (h : s.i.toNat + x.val ≤ 0xFFF) :
    (s.indexAfterBlock x).toNat =
      if s.params.indexAdvance = .advance then s.i.toNat + x.val + 1 else s.i.toNat := by
  unfold State.indexAfterBlock
  cases s.params.indexAdvance with
  | unchanged => rfl
  | advance =>
    simp only [↓reduceIte, BitVec.toNat_add, BitVec.toNat_ofNat]
    omega

/-- Settles O36: the three bytes written are the digits, in order. -/
theorem storeDecimalDigits : Obligations.StoreDecimalDigits := by
  unfold Obligations.StoreDecimalDigits
  refine fun x s => ⟨rfl, fun hin hwf => ?_, checked_outOfRange⟩
  obtain ⟨hhundreds, htens, hones⟩ := read_writeBytes_decimalDigits hwf hin (s.reg x)
  have hout : MemOutside s.i.toNat 3 s (s.setMem (s.mem.writeBytes s.i.toNat (decimalDigits (s.reg x)))) :=
    Memory.read_writeBytes_outside _ (decimalDigits (s.reg x)) _
  exact ⟨_, exec_ldB_inRange hin, hhundreds, htens, hones, hout, rfl, fun _ => rfl, rfl, transfer_frame s s.v _ s.i⟩

/-- Settles O37: the block written is V0 to V[X], which is X + 1 bytes. -/
theorem storeRegisters : Obligations.StoreRegisters := by
  unfold Obligations.StoreRegisters
  refine fun x s => ⟨rfl, fun hin hwf => ?_, checked_outOfRange⟩
  have hexec := exec_stRegs_inRange hin
  have hout : MemOutside s.i.toNat (x.val + 1) s (s.setMem (s.mem.writeBytes s.i.toNat (s.regBlock x))) := by
    rw [← s.regBlock_length x]
    exact Memory.read_writeBytes_outside _ _ _
  exact ⟨_, hexec, fun _ => exec_stRegs_read hwf hin hexec, hout, indexAfterBlock_toNat hin, rfl, fun _ => rfl,
    transfer_frame s s.v _ _⟩

/-- Settles O39: the registers loaded are those up to X. -/
theorem loadRegisters : Obligations.LoadRegisters := by
  unfold Obligations.LoadRegisters
  refine fun x s => ⟨rfl, fun hin => ?_, checked_outOfRange⟩
  have hexec := exec_ldRegs_inRange hin
  have hloaded (k : RegIdx) (hk : k ≤ x) := (s.loadedBlock_get x k).trans (if_pos hk)
  have hkept (k : RegIdx) (hk : ¬ k ≤ x) := (s.loadedBlock_get x k).trans (if_neg hk)
  generalize s.loadedBlock x = v at hexec hloaded hkept
  exact ⟨_, hexec, hloaded, hkept, indexAfterBlock_toNat hin, rfl, fun _ => rfl, transfer_frame s v s.mem _⟩

/-! ## ANNN, FX1E and FX29 -/

theorem exec_addI_of_le {x : RegIdx} {s : State} (h : s.i.toNat + (s.reg x).toNat ≤ 0xFFFF) :
    exec (.addI x) s = .next (s.setI (s.i + zext16 (s.reg x))).advance := if_neg (Nat.not_lt.2 h)

/-- FX1E's sum is exact where it fits I (R181). -/
theorem add_zext16_toNat {a : Word} {b : Byte} (h : a.toNat + b.toNat ≤ 0xFFFF) :
    (a + zext16 b).toNat = a.toNat + b.toNat := by
  simp only [zext16, BitVec.toNat_add, BitVec.toNat_setWidth]
  omega

/-- Settles O33: a 12-bit address keeps its value in I. -/
theorem loadIndex : Obligations.LoadIndex := by
  unfold Obligations.LoadIndex
  exact fun nnn s => ⟨rfl, _, rfl, zext16_toNat_addr nnn, rfl, fun _ => rfl, fun _ => rfl, transfer_frame s s.v s.mem _⟩

/-- Settles O34, by whether the exact sum fits I. -/
theorem addToIndex : Obligations.AddToIndex := by
  unfold Obligations.AddToIndex
  refine fun x s => ⟨rfl, fun h => ?_, exec_addI_overflow⟩
  exact ⟨_, exec_addI_of_le h, add_zext16_toNat h, rfl, fun _ => rfl, fun _ => rfl, transfer_frame s s.v s.mem _⟩

/-- Settles O35: row r of digit d's glyph is byte 5 d + r of FONT_DATA. -/
theorem pointAtGlyph : Obligations.PointAtGlyph := by
  unfold Obligations.PointAtGlyph
  intro x s
  have hi := glyphAddress_toNat (s.reg x)
  obtain ⟨hstack, htimers, hdisp, hrs, hhost, hdraws⟩ := transfer_frame s s.v s.mem (glyphAddress (s.reg x))
  refine ⟨rfl, (s.setI (glyphAddress (s.reg x))).advance, rfl, hi, rfl, fun _ => rfl, fun _ => rfl, hstack, htimers, hdisp,
    hrs, hhost, hdraws, fun hfont hdigit r => ?_⟩
  rw [State.advance_mem, State.advance_i, State.setI_mem, State.setI_i, hi, Nat.add_assoc]
  exact hfont ⟨5 * (s.reg x).toNat + r.val, by omega⟩

end Sys2Proof.Proofs
end

section
/-! Display (44_display.md R200 to R205): the display cleared, a sprite drawn and drawn again, and O40 to O42. -/

namespace Sys2Proof.Proofs

open Sys2Proof Sys2Proof.Machine Sys2Proof.Safety

/-- Whatever display and registers an instruction leaves, it changes nothing else but PC. -/
theorem display_frame (s : State) (d : Display) (v : Vector Byte 16) :
    let t := ((s.setDisp d).setV v).advance
    MemSame s t ∧ IndexSame s t ∧ StackSame s t ∧ TimersSame s t ∧ RunStateSame s t ∧ HostSame s t ∧ DrawsSame s t :=
  ⟨fun _ => rfl, rfl, ⟨rfl, rfl⟩, ⟨rfl, rfl⟩, rfl, ⟨⟨rfl, rfl, rfl⟩, rfl, rfl, rfl⟩, rfl, rfl⟩

/-- Settles O40: every pixel of the display it leaves is unset. -/
theorem clearDisplay : Obligations.ClearDisplay := by
  unfold Obligations.ClearDisplay
  exact ⟨rfl, fun s => ⟨_, rfl, pixel_blankDisplay, rfl, fun _ => rfl, display_frame s blankDisplay s.v⟩⟩

/-! ## One draw (R201) -/

/-- The state DXYN leaves when its sprite is in memory. -/
def drawnState (s : State) (x y : RegIdx) (n : Height) : State :=
  ((s.setDisp (s.drawn x y n).disp).setReg 0xF (flagByte (s.drawn x y n).hit)).advance

theorem inMemory_iff_spriteInMemory {s : State} {n : Height} :
    inMemory s.i.toNat n.val = true ↔ SpriteInMemory s n := by
  rw [inMemory_iff, memSize, SpriteInMemory]
  omega

theorem exec_drw_inMemory {s : State} {n : Height} (x y : RegIdx) (h : SpriteInMemory s n) :
    exec (.drw x y n) s = .next (drawnState s x y n) := if_pos (inMemory_iff_spriteInMemory.2 h)

theorem exec_drw_outOfRange {s : State} {n : Height} (x y : RegIdx) (h : ¬ SpriteInMemory s n) :
    exec (.drw x y n) s = s.fatal .dataOutOfRange := if_neg (mt inMemory_iff_spriteInMemory.1 h)

/-- At most 15 rows are drawn, so no two of them wrap onto one. -/
theorem drawn_inverted (s : State) (x y : RegIdx) (n : Height) :
    Inverted (SpriteCovers s x y n) ⟨s.disp, false⟩ (s.drawn x y n) :=
  drawSprite_inverted s.mem s.i.toNat (s.reg x).toNat (s.reg y).toNat n.val s.disp (by omega)

theorem drawnState_reg_flag (s : State) (x y : RegIdx) (n : Height) :
    (drawnState s x y n).reg 0xF = flagByte (s.drawn x y n).hit :=
  (State.setReg_reg _ _ _ _).trans (if_pos rfl)

theorem drawnState_reg_of_ne (s : State) (x y : RegIdx) (n : Height) {r : RegIdx} (hr : r ≠ 0xF) :
    (drawnState s x y n).reg r = s.reg r :=
  (State.setReg_reg _ _ _ _).trans (if_neg hr)

theorem flagByte_of_iff {b : Bool} {p : Prop} (h : b = true ↔ p) :
    (p → flagByte b = 1) ∧ (¬ p → flagByte b = 0) :=
  ⟨fun hp => if_pos (h.2 hp), fun hp => if_neg (mt h.1 hp)⟩

/-- The flag of a draw begun with no collision. -/
theorem hit_iff_of_inverted {P : Fin 64 → Fin 32 → Prop} {d : Display} {k : Canvas} (h : Inverted P ⟨d, false⟩ k) :
    k.hit = true ↔ ∃ px py, P px py ∧ pixel d px py = true :=
  h.hit.trans (or_iff_right Bool.false_ne_true)

/-- Settles O41, by whether the sprite is in memory. -/
theorem drawXorsSprite : Obligations.DrawXorsSprite := by
  unfold Obligations.DrawXorsSprite
  refine fun x y n s => ⟨rfl, fun hin => ?_, fun hout => ⟨_, exec_drw_outOfRange x y hout, rfl⟩⟩
  have hdraw := drawn_inverted s x y n
  have hflag := flagByte_of_iff (hit_iff_of_inverted hdraw)
  rw [← drawnState_reg_flag] at hflag
  exact ⟨_, exec_drw_inMemory x y hin, hdraw.covered, hdraw.others, hflag.1, hflag.2, rfl,
    fun _ => drawnState_reg_of_ne s x y n, display_frame s _ _⟩

/-! ## The same draw again (R205) -/

/-- The second of two draws over the same pixels undoes the first, and its flag says whether one was unset before both. -/
theorem inverted_twice {P : Fin 64 → Fin 32 → Prop} {d : Display} {k k' : Canvas} (h : Inverted P ⟨d, false⟩ k)
    (h' : Inverted P ⟨k.disp, false⟩ k') :
    k'.disp = d ∧ (k'.hit = true ↔ ∃ px py, P px py ∧ pixel d px py = false) := by
  constructor
  · refine display_ext fun px py => ?_
    by_cases hp : P px py
    · rw [h'.covered px py hp, h.covered px py hp, Bool.not_not]
    · rw [h'.others px py hp, h.others px py hp]
  · rw [hit_iff_of_inverted h']
    refine exists₂_congr fun px py => and_congr_right fun hp => ?_
    rw [h.covered px py hp, Bool.not_eq_true']

/-- With X and Y other than F the first draw moves no sprite: its address, bytes and coordinates are unchanged. -/
theorem spriteCovers_drawnState (s : State) {x y : RegIdx} (n : Height) (hx : x ≠ 0xF) (hy : y ≠ 0xF) :
    SpriteCovers (drawnState s x y n) x y n = SpriteCovers s x y n := by
  funext px py
  unfold SpriteCovers
  rw [drawnState_reg_of_ne s x y n hx, drawnState_reg_of_ne s x y n hy]
  rfl

/-- Settles O42: both draws invert the same pixels. -/
theorem drawTwiceRestores : Obligations.DrawTwiceRestores := by
  unfold Obligations.DrawTwiceRestores
  intro x y n s hx hy hin
  have hsecond := drawn_inverted (drawnState s x y n) x y n
  rw [spriteCovers_drawnState s n hx hy] at hsecond
  obtain ⟨hdisp, hhit⟩ := inverted_twice (drawn_inverted s x y n) hsecond
  have hflag := flagByte_of_iff hhit
  rw [← drawnState_reg_flag] at hflag
  exact ⟨_, _, exec_drw_inMemory x y hin, exec_drw_inMemory (s := drawnState s x y n) x y hin, hdisp, hflag⟩

end Sys2Proof.Proofs
end

section
/-! Timers and keyboard (45_timers_keys.md R220 to R227): the timer transfers, the skips on a key's level, the wait for a
newly pressed key, and O11 and O43 to O45. -/

namespace Sys2Proof.Proofs

open Sys2Proof Sys2Proof.Machine Sys2Proof.Safety

/-! ## A newly pressed key is stored (R225 to R227) -/

theorem newlyPressed_iff (s : State) (k : KeyIdx) :
    s.newlyPressed k = true ↔ s.keys.get k = true ∧ s.kbPrev.get k = false := by
  simp [State.newlyPressed]

/-- The state in which a wait with destination `x` has taken key `k`; the choice of `k` counts as a draw (R227). -/
def keyTaken (s : State) (x : RegIdx) (k : KeyIdx) : State :=
  (s.setDraws s.randIn (s.draws + 1)).writeResult x (BitVec.ofNat 8 k.val)

/-- Beside the register and PC, taking a key changes only the count of draws. -/
theorem keyTaken_spec (s : State) (x : RegIdx) (k : KeyIdx) :
    let t := keyTaken s x k
    (t.reg x).toNat = k.val ∧ t.pc = s.pc + 2 ∧ RegsExcept (· = x) s t ∧ MemSame s t ∧ IndexSame s t ∧ StackSame s t ∧
      TimersSame s t ∧ DispSame s t ∧ RunStateSame s t ∧ HostSame s t ∧ t.randIn = s.randIn := by
  obtain ⟨hreg, hpc, hregs, hmem, hindex, hstack, htimers, hdisp, hrs, hhost, hrand, -⟩ :=
    writeResult_spec (s.setDraws s.randIn (s.draws + 1)) x (BitVec.ofNat 8 k.val)
  have hbyte : (BitVec.ofNat 8 k.val).toNat = k.val := Nat.mod_eq_of_lt (k.isLt.trans (by decide))
  exact ⟨(congrArg BitVec.toNat hreg).trans hbyte, hpc, hregs, hmem, hindex, hstack, htimers, hdisp, hrs, hhost, hrand⟩

/-! ## FX0A, in its own STEP and in those of the wait -/

/-- FX0A waits where no key is newly pressed, and takes one where some key is (R225). -/
theorem exec_ldVxK_cases (x : RegIdx) (s : State) :
    (exec (.ldVxK x) s = .next (s.setRs (.awaitingKey x)) ∧ ∀ k, s.newlyPressed k = false) ∨
    (∃ k, s.newlyPressed k = true ∧ exec (.ldVxK x) s = .next (keyTaken s x k)) := by
  rcases s.takeKey_cases x with ⟨hnone, hk⟩ | ⟨k, hk, hsome⟩
  · exact .inl ⟨by simp only [exec, execLdVxK, hnone], hk⟩
  · exact .inr ⟨k, hk, by simp only [exec, execLdVxK, hsome, keyTaken]⟩

/-- FX0A never faults (R225). -/
theorem exec_ldVxK_not_faulted {x : RegIdx} {s t : State} (hrs : s.rs = .running) (h : exec (.ldVxK x) s = .next t)
    (c : Fault) : t.rs ≠ .faulted c := by
  rcases exec_ldVxK_cases x s with ⟨hx, -⟩ | ⟨k, -, hx⟩ <;> cases hx.symm.trans h
  · exact nofun
  · rw [show (keyTaken s x k).rs = .running from hrs]
    exact nofun

/-- Settles O45, by whether FX0A waits or takes a key; either way the core is not Faulted when the keyboard is sampled. -/
theorem waitForKey : Obligations.WaitForKey := by
  unfold Obligations.WaitForKey
  refine fun x s => ⟨rfl, fun ⟨k, hk⟩ => ?_, fun hheld => ?_, fun hrs t h => ?_⟩
  · rcases exec_ldVxK_cases x s with ⟨-, hnone⟩ | ⟨k', hk', hx⟩
    · exact absurd ((newlyPressed_iff s k).2 hk) (Bool.eq_false_iff.1 (hnone k))
    · obtain ⟨hdown, hup⟩ := (newlyPressed_iff s k').1 hk'
      exact ⟨k', _, hx, hdown, hup, keyTaken_spec s x k'⟩
  · rcases exec_ldVxK_cases x s with ⟨hx, -⟩ | ⟨k, hk, -⟩
    · exact hx
    · obtain ⟨hdown, hup⟩ := (newlyPressed_iff s k).1 hk
      exact absurd (hheld k hdown) (Bool.eq_false_iff.1 hup)
  · have hsample : t.sampleKeys = t.setKbPrev s.keys := by
      rw [State.sampleKeys_of_not_faulted (exec_ldVxK_not_faulted hrs h), (exec_surroundings h).keys]
    exact congrArg Host.Outcome.next hsample

/-- A STEP of the wait only samples the keyboard, or takes a key and is Running again (R226). -/
theorem stepOp_awaiting_cases {s : State} {x : RegIdx} (hrs : s.rs = .awaitingKey x) :
    (stepOp s = .next ((s.setReport none).setKbPrev s.keys) ∧ ∀ k, s.newlyPressed k = false) ∨
    (∃ k, s.newlyPressed k = true ∧
      stepOp s = .next (((keyTaken (s.setReport none) x k).setRs .running).setKbPrev s.keys)) := by
  rw [stepOp_awaiting hrs, endStep]
  rcases (s.setReport none).awaitKey_cases x with ⟨hwait, hk⟩ | ⟨k, hk, htake⟩
  · refine .inl ⟨?_, hk⟩
    have hrun : ∀ c, (s.setReport none).rs ≠ .faulted c := fun c hc => by cases hrs.symm.trans hc
    rw [hwait, State.sampleKeys_of_not_faulted hrun]
    rfl
  · refine .inr ⟨k, hk, ?_⟩
    rw [htake, State.sampleKeys_of_not_faulted fun c hc => by cases hc]
    rfl

/-- Settles O11, by whether the STEP takes a key. -/
theorem awaitingStepCompletes : Obligations.AwaitingStepCompletes := by
  unfold Obligations.AwaitingStepCompletes
  refine fun s x hrs => ⟨fun hnone => ?_, fun ⟨k, hk⟩ => ?_⟩
  · rcases stepOp_awaiting_cases hrs with ⟨hstep, -⟩ | ⟨k, hk, -⟩
    · exact hstep
    · exact absurd hk (Bool.eq_false_iff.1 (hnone k))
  · rcases stepOp_awaiting_cases hrs with ⟨-, hnone⟩ | ⟨k', hk', hstep⟩
    · exact absurd hk (Bool.eq_false_iff.1 (hnone k))
    · obtain ⟨hreg, hpc, hregs, hmem, hindex, hstack, htimers, hdisp, -, ⟨⟨-, hreport, hload⟩, hlines⟩, hrand⟩ :=
        keyTaken_spec (s.setReport none) x k'
      exact ⟨k', _, hstep, hk', hreg, hpc, rfl, rfl, hreport, hregs, hmem, hindex, hstack, htimers, hdisp, hload, hlines,
        hrand⟩

/-! ## EX9E and EXA1 (R223, R224) -/

theorem exec_skp_key {x : RegIdx} {s : State} {k : KeyIdx} (h : (s.reg x).toNat = k.val) :
    exec (.skp x) s = .next (s.skipIf (s.keys.get k)) := by
  simp only [exec, execSkp, (s.keyOperand_some_iff x k).2 h]

theorem exec_sknp_key {x : RegIdx} {s : State} {k : KeyIdx} (h : (s.reg x).toNat = k.val) :
    exec (.sknp x) s = .next (s.skipIf (!s.keys.get k)) := by
  simp only [exec, execSknp, (s.keyOperand_some_iff x k).2 h]

theorem exec_skp_noKey {x : RegIdx} {s : State} (h : (s.reg x).toNat > 0xF) :
    exec (.skp x) s = s.fatal .keyIndexOutOfRange := by
  simp only [exec, execSkp, (s.keyOperand_none_iff x).2 h]

theorem exec_sknp_noKey {x : RegIdx} {s : State} (h : (s.reg x).toNat > 0xF) :
    exec (.sknp x) s = s.fatal .keyIndexOutOfRange := by
  simp only [exec, execSknp, (s.keyOperand_none_iff x).2 h]

/-- Settles O44, by whether V[X] names a key. -/
theorem skipOnKey : Obligations.SkipOnKey := by
  unfold Obligations.SkipOnKey
  refine fun x s => ⟨rfl, rfl, fun k hk => ⟨?_, ?_⟩, fun h => ⟨⟨_, exec_skp_noKey h, rfl⟩, _, exec_sknp_noKey h, rfl⟩⟩
  · exact ⟨_, exec_skp_key hk, skipIf_spec s Iff.rfl⟩
  · exact ⟨_, exec_sknp_key hk, skipIf_spec s (Iff.of_eq (Bool.not_eq_true' _))⟩

/-! ## FX07, FX15 and FX18 (R220 to R222) -/

/-- Whatever the timers hold after an instruction, it changes nothing else but PC. -/
theorem timers_frame (s : State) (dt st : Byte) :
    let t := ((s.setDt dt).setSt st).advance
    RegsSame s t ∧ MemSame s t ∧ IndexSame s t ∧ StackSame s t ∧ DispSame s t ∧ RunStateSame s t ∧ HostSame s t ∧
      DrawsSame s t :=
  ⟨fun _ => rfl, fun _ => rfl, rfl, ⟨rfl, rfl⟩, rfl, rfl, ⟨⟨rfl, rfl, rfl⟩, rfl, rfl, rfl⟩, rfl, rfl⟩

/-- Settles O43: each write to a timer leaves the other as the state's own. -/
theorem timerTransfers : Obligations.TimerTransfers := by
  unfold Obligations.TimerTransfers
  intro x s
  exact ⟨⟨rfl, _, rfl, writeResult_spec s x s.dt⟩,
    ⟨rfl, _, rfl, rfl, rfl, rfl, timers_frame s (s.reg x) s.st⟩,
    ⟨rfl, _, rfl, rfl, rfl, rfl, timers_frame s s.dt (s.reg x)⟩⟩

end Sys2Proof.Proofs
end

section
/-! Fatal faults (60_exceptions.md R240 to R250): a fault is a next state that differs in RS alone, which instruction
takes which cause, and O12 to O14. -/

namespace Sys2Proof.Proofs

open Sys2Proof Sys2Proof.Machine Sys2Proof.Safety

/-! ## A fault discards every write of its STEP (R240) -/

/-- An instruction that leaves a core Faulted has changed nothing but RS: the other shapes keep RS, or wait. -/
theorem Effect.eq_setRs_of_faulted {i : Instr} {s t : State} {c : Fault} (he : Effect s i t)
    (hs : ∀ c', s.rs ≠ .faulted c') (ht : t.rs = .faulted c) : t = s.setRs (.faulted c) := by
  cases he with
  | fault i c' => cases ht; rfl
  | wait x => cases ht
  | _ => exact absurd ht (hs c)

/-- A waiting STEP does not fault (45_timers_keys.md R226). -/
theorem awaitKey_not_faulted {s : State} {x : RegIdx} (hs : ∀ c, s.rs ≠ .faulted c) (c : Fault) :
    (s.awaitKey x).rs ≠ .faulted c := by
  rcases s.awaitKey_cases x with ⟨h, -⟩ | ⟨k, -, h⟩ <;> rw [h]
  · exact hs c
  · exact nofun

/-- A STEP that takes a fault changes RS and the report output, nothing else (R240). -/
theorem stepOp_faulted_eq {s t : State} {c : Fault} (hs : ∀ c', s.rs ≠ .faulted c') (h : stepOp s = .next t)
    (ht : t.rs = .faulted c) : t = (s.setReport none).setRs (.faulted c) := by
  have hcase := stepOp_cases s
  rw [h] at hcase
  cases hcase with
  | faulted c' hrs => exact absurd hrs (hs c')
  | awaiting x hrs =>
    rw [sampleKeys_rs] at ht
    exact absurd ht (awaitKey_not_faulted (s := s.setReport none) hs c)
  | fetchFault c' hrs hf => cases ht; rfl
  | invalid w e hrs hf hd =>
    rw [sampleKeys_rs] at ht
    exact absurd ht (hs c)
  | executed w i u hrs hf hd hx =>
    rw [sampleKeys_rs] at ht
    rw [State.sampleKeys_of_faulted ht]
    exact (exec_effect hx).eq_setRs_of_faulted hs ht
  | stopped w i r hrs hf hd hx hn => exact absurd rfl (hn t)

/-- Settles O12: the state after the fault has no report to clear, so the next STEP leaves it as it is. -/
theorem fatalFaultIsPrecise : Obligations.FatalFaultIsPrecise := by
  unfold Obligations.FatalFaultIsPrecise
  intro s t c hs h ht
  have heq := stepOp_faulted_eq hs h ht
  refine ⟨heq, ?_⟩
  rw [stepOp_faulted ht, heq]
  rfl

/-! ## Which instruction faults, with which cause (R241, R250) -/

theorem fatal_inj {s : State} {c c' : Fault} (h : s.fatal c = s.fatal c') : c = c' := by
  cases h; rfl

theorem next_ne_fatal {s t : State} (ht : t.rs = .running) (c : Fault) : (.next t : Result) ≠ s.fatal c := by
  intro h
  rw [State.fatal_eq h.symm] at ht
  cases ht

/-- To end in Faulted(c) is to take the fault `c`. -/
theorem exec_faulted_iff {i : Instr} {s : State} {c : Fault} (hrs : s.rs = .running) :
    (∃ t, exec i s = .next t ∧ t.rs = .faulted c) ↔ exec i s = s.fatal c := by
  constructor
  · rintro ⟨t, h, ht⟩
    rw [h, (exec_effect h).eq_setRs_of_faulted (fun c' => by rw [hrs]; exact nofun) ht]
    rfl
  · intro h
    exact ⟨_, h, rfl⟩

/-- Where an operation faults with cause `e` if `p` holds and stays Running if not, `p` decides its fault. -/
theorem eq_fatal_iff {r : Result} {s : State} {e c : Fault} {p : Prop} (hfault : p → r = s.fatal e)
    (hnext : ¬ p → ∃ t, r = .next t ∧ t.rs = .running) : r = s.fatal c ↔ c = e ∧ p := by
  by_cases hp : p
  · rw [hfault hp]
    exact ⟨fun h => ⟨(fatal_inj h).symm, hp⟩, fun ⟨hc, _⟩ => by rw [hc]⟩
  · obtain ⟨t, rfl, ht⟩ := hnext hp
    exact iff_of_false (next_ne_fatal ht c) fun ⟨_, h⟩ => hp h

/-- A range check that fails is a fault (20_memory.md R72). -/
theorem checked_fatal {base n : Nat} {s u : State} (h : base + n > 0xFFF) :
    (if inMemory base (n + 1) then .next u else s.fatal .dataOutOfRange : Result) = s.fatal .dataOutOfRange :=
  if_neg (mt inMemory_succ_iff.1 (Nat.not_le.2 h))

/-- The instructions the table of causes names (R241). -/
def hasCause : Instr → Prop
  | .call _ | .ret | .drw _ _ _ | .ldB _ | .stRegs _ | .ldRegs _ | .skp _ | .sknp _ => True
  | _ => False

section
variable {s : State} {c : Fault} (hrs : s.rs = .running)
include hrs

theorem exec_call_eq_fatal_iff (nnn : Addr12) :
    exec (.call nnn) s = s.fatal c ↔ c = .stackOverflow ∧ s.sp.val = 16 :=
  eq_fatal_iff (exec_call_full nnn) fun h => ⟨_, exec_call_of_lt nnn (by omega), hrs⟩

theorem exec_ret_eq_fatal_iff : exec .ret s = s.fatal c ↔ c = .stackUnderflow ∧ s.sp.val = 0 :=
  eq_fatal_iff exec_ret_empty fun h => ⟨_, exec_ret_of_pos (Nat.pos_of_ne_zero h), hrs⟩

theorem exec_drw_eq_fatal_iff (x y : RegIdx) (n : Height) :
    exec (.drw x y n) s = s.fatal c ↔ c = .dataOutOfRange ∧ ¬ SpriteInMemory s n :=
  eq_fatal_iff (exec_drw_outOfRange x y) fun h => ⟨_, exec_drw_inMemory x y (not_not.1 h), hrs⟩

theorem exec_ldB_eq_fatal_iff (x : RegIdx) :
    exec (.ldB x) s = s.fatal c ↔ c = .dataOutOfRange ∧ s.i.toNat + 2 > 0xFFF :=
  eq_fatal_iff checked_fatal fun h => ⟨_, exec_ldB_inRange (Nat.not_lt.1 h), hrs⟩

theorem exec_stRegs_eq_fatal_iff (x : RegIdx) :
    exec (.stRegs x) s = s.fatal c ↔ c = .dataOutOfRange ∧ s.i.toNat + x.val > 0xFFF :=
  eq_fatal_iff checked_fatal fun h => ⟨_, exec_stRegs_inRange (Nat.not_lt.1 h), hrs⟩

theorem exec_ldRegs_eq_fatal_iff (x : RegIdx) :
    exec (.ldRegs x) s = s.fatal c ↔ c = .dataOutOfRange ∧ s.i.toNat + x.val > 0xFFF :=
  eq_fatal_iff checked_fatal fun h => ⟨_, exec_ldRegs_inRange (Nat.not_lt.1 h), hrs⟩

theorem exec_skp_eq_fatal_iff (x : RegIdx) :
    exec (.skp x) s = s.fatal c ↔ c = .keyIndexOutOfRange ∧ (s.reg x).toNat > 0xF :=
  eq_fatal_iff exec_skp_noKey fun h => ⟨_, exec_skp_key (k := ⟨(s.reg x).toNat, by omega⟩) rfl, hrs⟩

theorem exec_sknp_eq_fatal_iff (x : RegIdx) :
    exec (.sknp x) s = s.fatal c ↔ c = .keyIndexOutOfRange ∧ (s.reg x).toNat > 0xF :=
  eq_fatal_iff exec_sknp_noKey fun h => ⟨_, exec_sknp_key (k := ⟨(s.reg x).toNat, by omega⟩) rfl, hrs⟩

/-- No other instruction faults (R250). -/
theorem exec_ne_fatal {i : Instr} (hi : ¬ hasCause i) : exec i s ≠ s.fatal c := by
  cases i with
  | call | ret | drw | ldB | stRegs | ldRegs | skp | sknp => exact absurd trivial hi
  | rnd x nn =>
    obtain ⟨r, n, hr⟩ := s.drawRand_state
    exact next_ne_fatal (by rw [State.writeResult_rs, hr]; exact hrs) c
  | ldVxK x => exact fun h => exec_ldVxK_not_faulted hrs h c rfl
  | addI x =>
    rcases Nat.lt_or_ge 0xFFFF (s.i.toNat + (s.reg x).toNat) with h | h
    · rw [exec_addI_overflow h]; exact nofun
    · rw [exec_addI_of_le h]; exact next_ne_fatal (by exact hrs) c
  | _ => exact next_ne_fatal (by exact hrs) c

end

/-- Settles O13, by the instruction: each of the table has its own cause and condition, and the others do not fault. -/
theorem faultCausesExactly : Obligations.FaultCausesExactly := by
  unfold Obligations.FaultCausesExactly
  intro i s c hrs
  rw [exec_faulted_iff hrs]
  cases i with
  | call nnn => simpa using exec_call_eq_fatal_iff hrs nnn
  | ret => simpa using exec_ret_eq_fatal_iff hrs
  | drw x y n =>
    have hout : ¬ SpriteInMemory s n ↔ n.val > 0 ∧ s.i.toNat + n.val - 1 > 0xFFF := by
      rw [SpriteInMemory]; omega
    rw [exec_drw_eq_fatal_iff hrs, hout]
    simp
  | ldB x => simpa using exec_ldB_eq_fatal_iff hrs x
  | stRegs x => simpa using exec_stRegs_eq_fatal_iff hrs x
  | ldRegs x => simpa using exec_ldRegs_eq_fatal_iff hrs x
  | skp x => simpa using exec_skp_eq_fatal_iff hrs x
  | sknp x => simpa using exec_sknp_eq_fatal_iff hrs x
  | _ => exact iff_of_false (exec_ne_fatal hrs id) (by simp)

/-! ## No step answers the interface's fault outcome (log entry 5) -/

theorem checked_ne_fault {s u : State} {e f : Fault} {p : Prop} [Decidable p] :
    (if p then .next u else s.fatal e : Result) ≠ .fault f := by
  split <;> exact nofun

theorem exec_ne_fault (i : Instr) (s : State) (f : Fault) : exec i s ≠ .fault f := by
  intro h
  cases i with
  | ret =>
    obtain ⟨t, ht⟩ := exec_next_of_writesStack (i := .ret) s trivial
    cases h.symm.trans ht
  | call nnn =>
    obtain ⟨t, ht⟩ := exec_next_of_writesStack (i := .call nnn) s trivial
    cases h.symm.trans ht
  | drw | ldB | stRegs | ldRegs => exact absurd h checked_ne_fault
  | skp x => simp only [exec, execSkp] at h; split at h <;> cases h
  | sknp x => simp only [exec, execSknp] at h; split at h <;> cases h
  | ldVxK x => rcases exec_ldVxK_cases x s with ⟨hx, -⟩ | ⟨k, -, hx⟩ <;> cases hx.symm.trans h
  | addI x => simp only [exec, execAddI] at h; split at h <;> cases h
  | _ => cases h

theorem stepOp_ne_fault (s : State) (f : Fault) : stepOp s ≠ .fault f := by
  intro h
  have hcase := stepOp_cases s
  rw [h] at hcase
  cases hcase with
  | stopped w i r hrs hf hd hx hn => exact exec_ne_fault i _ f hx

theorem loadOp_ne_fault (rom : List Byte) (s : State) (f : Fault) : loadOp rom s ≠ .fault f := by
  unfold loadOp
  split
  · split <;> exact nofun
  · exact nofun

theorem perform_ne_fault (op : HostOp) (s : State) (f : Fault) : perform op s ≠ .fault f := by
  cases op with
  | step => exact stepOp_ne_fault s f
  | load rom => exact loadOp_ne_fault rom s f
  | timerTick | reset | writeKeys | supplyRand => exact nofun

/-- Settles O14, by the operation the step performs. -/
theorem noStepStopsInHostFault : Obligations.NoStepStopsInHostFault := by
  unfold Obligations.NoStepStopsInHostFault
  intro s f
  cases hh : s.host with
  | nil => rw [step_nil hh]; exact stepOp_ne_fault s f
  | cons op rest => rw [step_cons hh]; exact perform_ne_fault op _ f

end Sys2Proof.Proofs
end

section
/-! TIMER_TICK (60_exceptions.md R260 to R263): what a tick does to a timer, what the other operations leave of it, and
O58 and O59. -/

namespace Sys2Proof.Proofs

open Sys2Proof Sys2Proof.Machine Sys2Proof.Safety

theorem tickDown_toNat (b : Byte) : (tickDown b).toNat = b.toNat - 1 := by
  unfold tickDown
  split <;> bv_omega

/-- Settles O58: the two fields a tick writes are the timers. -/
theorem timerTickDecrements : Obligations.TimerTickDecrements := by
  unfold Obligations.TimerTickDecrements
  exact fun s => ⟨timerTick s, rfl, tickDown_toNat s.dt, tickDown_toNat s.st, rfl⟩

/-! ## What the other operations leave of the timers -/

theorem sampleKeys_timers (s : State) : TimersSame s s.sampleKeys := by
  rcases s.sampleKeys_cases with hs | hs <;> rw [hs] <;> exact ⟨rfl, rfl⟩

theorem awaitKey_timers (s : State) (x : RegIdx) : TimersSame s (s.awaitKey x) := by
  rcases s.awaitKey_cases x with ⟨h, -⟩ | ⟨k, -, h⟩ <;> rw [h] <;> exact ⟨rfl, rfl⟩

theorem timersSame_trans {s t u : State} (h : TimersSame s t) (h' : TimersSame t u) : TimersSame s u :=
  ⟨h'.1.trans h.1, h'.2.trans h.2⟩

/-- A timer: a byte of the state that a tick counts down, that depends on DT and ST alone, and that only the instructions
`writes` holds of write (10_state.md R32, R33). -/
structure IsTimer (get : State → Byte) (writes : Instr → Prop) : Prop where
  tick (s : State) : get (timerTick s) = tickDown (get s)
  same {s t : State} : TimersSame s t → get t = get s
  kept {i : Instr} {s t : State} : exec i s = .next t → ¬ writes i → get t = get s

theorem isTimer_dt : IsTimer State.dt writesDt :=
  ⟨fun _ => rfl, fun h => h.1, fun h => not_imp_comm.1 (exec_effect h).dt_changes⟩

theorem isTimer_st : IsTimer State.st writesSt :=
  ⟨fun _ => rfl, fun h => h.2, fun h => not_imp_comm.1 (exec_effect h).st_changes⟩

section
variable {get : State → Byte} {writes : Instr → Prop} (hget : IsTimer get writes)
include hget

/-- A STEP keeps a timer unless it executes the instruction that writes it. -/
theorem stepOp_keeps_timer {s t : State} (h : stepOp s = .next t) (hnext : ∀ i, nextInstr s = some i → ¬ writes i) :
    get t = get s := by
  have hcase := stepOp_cases s
  rw [h] at hcase
  cases hcase with
  | faulted | fetchFault => exact hget.same ⟨rfl, rfl⟩
  | awaiting x hrs =>
    exact hget.same (timersSame_trans (awaitKey_timers (s.setReport none) x) (sampleKeys_timers _))
  | invalid w e hrs hf hd => exact hget.same (sampleKeys_timers ((s.setReport none).reportInvalid w))
  | executed w i u hrs hf hd hx =>
    have hi : ¬ writes i := hnext i ((nextInstr_eq_some_iff s i).2 ⟨hrs, w, hf, hd⟩)
    calc get u.sampleKeys = get u := hget.same (sampleKeys_timers u)
      _ = get (s.setReport none) := hget.kept hx hi
      _ = get s := hget.same ⟨rfl, rfl⟩
  | stopped w i r hrs hf hd hx hn => exact absurd rfl (hn t)

/-- An operation but RESET takes a timer down by its ticks, of which TIMER_TICK is one and every other none. -/
theorem perform_timer {op : HostOp} {s t : State} (hop : op ≠ .reset) (h : perform op s = .next t)
    (hnext : op = .step → ∀ i, nextInstr s = some i → ¬ writes i) :
    (get t).toNat = (get s).toNat - tickCount [op] := by
  cases op with
  | reset => exact absurd rfl hop
  | timerTick =>
    cases h
    rw [hget.tick]
    exact tickDown_toNat _
  | step => exact congrArg BitVec.toNat (stepOp_keeps_timer hget h (hnext rfl))
  | load rom => rcases loadOp_next_cases h with ⟨-, rfl⟩ | rfl <;> exact congrArg BitVec.toNat (hget.same ⟨rfl, rfl⟩)
  | writeKeys | supplyRand => cases h; exact congrArg BitVec.toNat (hget.same ⟨rfl, rfl⟩)

/-- Ticks add up along a run (R263). -/
theorem runOps_timer {ops : List HostOp} {s t : State} (hops : .reset ∉ ops) (h : runOps ops s = some t)
    (hnever : NeverExecutes writes ops s) : (get t).toNat = (get s).toNat - tickCount ops := by
  induction ops generalizing s with
  | nil => cases h; rfl
  | cons op ops ih =>
    have hop : op ≠ .reset := (List.ne_of_not_mem_cons hops).symm
    obtain ⟨hfirst, hrest⟩ := hnever
    cases hu : perform op s with
    | next u =>
      have hcount : tickCount (op :: ops) = tickCount [op] + tickCount ops := List.count_append (l₁ := [op])
      rw [runOps, hu] at h
      rw [ih (List.not_mem_of_not_mem_cons hops) h (hrest u hu), perform_timer hget hop hu hfirst, hcount, Nat.sub_sub]
    | fault f => simp [runOps, hu] at h
    | refused r => simp [runOps, hu] at h

end

/-- Settles O59: DT and ST are timers. -/
theorem ticksCountDown : Obligations.TicksCountDown := by
  unfold Obligations.TicksCountDown
  exact fun ops s t hops h => ⟨runOps_timer isTimer_dt hops h, runOps_timer isTimer_st hops h⟩

end Sys2Proof.Proofs
end

section
/-! LOAD (70_reset_and_hazards.md R282 to R284), and the self-jump a program may end in (R292): O57 and O60. -/

namespace Sys2Proof.Proofs

open Sys2Proof Sys2Proof.Machine Sys2Proof.Safety

/-- LOAD of an Unloaded core copies a ROM that fits (R282). -/
theorem loadOp_of_fits {rom : List Byte} {s : State} (hrs : s.rs = .unloaded) (hfit : rom.length ≤ maxRom) :
    loadOp rom s = .next (loadProgram rom s) := by
  have hfits : romFits rom = true := decide_eq_true hfit
  simp only [loadOp, hrs, hfits, if_true]

/-- LOAD of an Unloaded core sets only the load error when the ROM does not fit (R283). -/
theorem loadOp_of_tooLarge {rom : List Byte} {s : State} (hrs : s.rs = .unloaded) (hlarge : rom.length > maxRom) :
    loadOp rom s = .next { s with loadError := some .tooLarge } := by
  have hfits : romFits rom = false := decide_eq_false (Nat.not_le.2 hlarge)
  simp only [loadOp, hrs, hfits, Bool.false_eq_true, if_false]

/-- The largest ROM ends at the last byte of memory, so every byte of it reads back (R282). -/
theorem loadProgram_read {rom : List Byte} {s : State} (hwf : s.mem.wf = true) (hfit : rom.length ≤ maxRom) {j : Nat}
    (hj : j < rom.length) : (loadProgram rom s).mem.read (progBase + j) = rom[j] :=
  Memory.read_writeBytes_inside hwf rom progBase j hj (by rw [maxRom] at hfit; rw [progBase, memSize]; omega)

theorem loadProgram_memOutside (rom : List Byte) (s : State) :
    MemOutside progBase rom.length s (loadProgram rom s) :=
  Memory.read_writeBytes_outside s.mem rom progBase

/-- Settles O57, by the run state and the length of the ROM. -/
theorem loadCopiesRom : Obligations.LoadCopiesRom := by
  unfold Obligations.LoadCopiesRom
  refine fun rom s => ⟨fun hrs hfit hwf => ?_, loadOp_of_tooLarge, fun hrs => ?_⟩
  · exact ⟨loadProgram rom s, loadOp_of_fits hrs hfit, fun _ => loadProgram_read hwf hfit,
      loadProgram_memOutside rom s, rfl⟩
  · exact (loadOp_refused_iff rom s _).2 ⟨rfl, hrs⟩

/-! ## The self-jump -/

/-- The state after a STEP that only samples the keyboard. -/
def onlySampled (s : State) : State := { s with kbPrev := s.keys, report := none }

/-- The jump sets PC to the value it has, so only the keyboard sample is left of the STEP (R292). -/
theorem stepOp_selfJump {s : State} (h : AtSelfJump s) : stepOp s = .next (onlySampled s) := by
  obtain ⟨hrs, nnn, hfetch, hpc⟩ := h
  have hjump : exec (.jp nnn) (s.setReport none) = .next (s.setReport none) := by
    change Host.Outcome.next ((s.setReport none).setPc (zext16 nnn)) = _
    rw [← hpc]
    rfl
  have hrunning : ∀ c, (s.setReport none).rs ≠ .faulted c := fun c => by
    rw [show (s.setReport none).rs = .running from hrs]
    exact nofun
  rw [stepOp_decoded hrs hfetch (decodeOfEncode _), hjump, endStep, State.sampleKeys_of_not_faulted hrunning]
  rfl

/-- Neither KB_PREV nor the report is read by the fetch, so the core still stands at the self-jump. -/
theorem atSelfJump_onlySampled {s : State} (h : AtSelfJump s) : AtSelfJump (onlySampled s) := h

theorem step_selfJump {s : State} (h : AtSelfJump s) (hhost : s.host = []) : core.step s = .next (onlySampled s) :=
  (step_nil hhost).trans (stepOp_selfJump h)

theorem run_succ_of_step {M : Host.Core} {s t : M.State} (h : M.step s = .next t) (k : Nat) :
    M.run (k + 1) s = M.run k t := by
  simp only [Host.Core.run, h]

/-- A state whose step leads back to it is where every run from it ends. -/
theorem run_of_step_self {M : Host.Core} {s : M.State} (h : M.step s = .next s) (k : Nat) : M.run k s = .next s := by
  induction k with
  | zero => rfl
  | succ k ih => exact (run_succ_of_step h k).trans ih

/-- Settles O60: the first STEP samples the keyboard, and every later one leads back to the state it left. -/
theorem selfJumpChangesNothing : Obligations.SelfJumpChangesNothing := by
  unfold Obligations.SelfJumpChangesNothing
  intro s k hjump hhost
  have hfirst : core.step s = .next (onlySampled s) := step_selfJump hjump hhost
  have hagain : core.step (onlySampled s) = .next (onlySampled s) :=
    step_selfJump (s := onlySampled s) (atSelfJump_onlySampled hjump) hhost
  exact (run_succ_of_step hfirst k).trans (run_of_step_self hagain k)

end Sys2Proof.Proofs
end
